-- ==== Sys2Proof/Word.lean ====
section
/-! DEFINITION. The value types of spec/00_scope.md rule R18: bytes, byte strings, 16-byte blocks, command words. -/

namespace Sys2Proof

/-- `Byte`, an unsigned 8-bit value (R18). -/
abbrev Byte := BitVec 8

/-- `Bytes`, a finite sequence of bytes, index 0 first (R18, R53). -/
abbrev Bytes := List Byte

/-- `Block16`, a byte string of length 16 (R18). -/
abbrev Block16 := Vector Byte 16

/-- A command word, 32 bits (R70). -/
abbrev Word := BitVec 32

/-- One bit, the width of `R_CARRY` (R33). -/
abbrev Bit := BitVec 1

end Sys2Proof
end

