-- ==== Sys2Proof/Syntax.lean ====
section
/-! DEFINITION. The ten commands of spec/30_encoding.md rule R75, one constructor per row of the opcode table.
No command carries an operand (R73): operands come from the ports of the issuing channel (R74). -/

namespace Sys2Proof

inductive Instr where
  | xor
  | xorend
  | pad
  | shl1
  | dbl
  | cteq
  | s2v
  | ctr
  /-- SEAL; the plain word is a command of Lean. -/
  | seal_
  /-- OPEN; the plain word is a keyword of Lean. -/
  | open_
  deriving DecidableEq, Repr

end Sys2Proof
end

