-- ==== Sys2Proof/Decode.lean ====
section
/-! DEFINITION. Decoding a command word (spec/30_encoding.md rules R70 to R77), total on every 32-bit word and rejecting
by name, and the encoder. -/

namespace Sys2Proof

/-- Why a word is illegal (R76). -/
inductive DecodeError where
  /-- `RES` (bits 31:8) is not 0. -/
  | reservedBits
  /-- `RES` is 0 and `OPC` (bits 7:0) is not in the table of R75. -/
  | unassignedOpcode
  deriving DecidableEq, Repr

/-- The field `OPC` of a word (R70). -/
def Word.opc (w : Word) : BitVec 8 := w.extractLsb' 0 8

/-- The field `RES` of a word (R70). -/
def Word.res (w : Word) : BitVec 24 := w.extractLsb' 8 24

/-- The opcode map of R75, from the table to the command. -/
def ofOpcode? (opc : BitVec 8) : Option Instr :=
  if opc = 0x01#8 then some .xor
  else if opc = 0x02#8 then some .xorend
  else if opc = 0x03#8 then some .pad
  else if opc = 0x04#8 then some .shl1
  else if opc = 0x05#8 then some .dbl
  else if opc = 0x06#8 then some .cteq
  else if opc = 0x10#8 then some .s2v
  else if opc = 0x20#8 then some .ctr
  else if opc = 0x30#8 then some .seal_
  else if opc = 0x31#8 then some .open_
  else none

/-- Decoding (R72). -/
def decode (w : Word) : Except DecodeError Instr :=
  if w.res = 0 then
    match ofOpcode? w.opc with
    | some i => .ok i
    | none => .error .unassignedOpcode
  else .error .reservedBits

/-- The opcode of a command (R75). -/
def opcode : Instr → BitVec 8
  | .xor => 0x01
  | .xorend => 0x02
  | .pad => 0x03
  | .shl1 => 0x04
  | .dbl => 0x05
  | .cteq => 0x06
  | .s2v => 0x10
  | .ctr => 0x20
  | .seal_ => 0x30
  | .open_ => 0x31

/-- The word of a command: `0x000000` followed by the opcode byte (R75). -/
def encode (i : Instr) : Word := (0 : BitVec 24) ++ opcode i

/-- The command word that the opcode table's numbering gives for `nbits` bits of `w`, with every bit above them 0. -/
def tableWord (nbits w : Nat) : Word := BitVec.ofNat 32 (w % 2 ^ nbits)

/-- The command the decoder reads from a word of the opcode table; none where it refuses. -/
def decodeTableWord (nbits w : Nat) : Option Instr :=
  match decode (tableWord nbits w) with
  | .ok i => some i
  | .error _ => none

end Sys2Proof
end

