-- ==== Sys2Proof/Config.lean ====
section
/-! DEFINITION. What an implementation fixes: the parameters of spec/00_scope.md rules R10 to R17, each an opaque constant, and the identity of R3. -/

namespace Sys2Proof

/-- `BLOCK` (R10). -/
def Config.block : Nat := 16

/-- `MAX_AD` (R15). -/
def Config.maxAd : Nat := 126

/-- `BC`, the encrypt direction of the attached block cipher (R11). -/
opaque Config.bc : Bytes → Block16 → Block16

/-- `BC_BLOCK_SIZE`, the block size the attached cipher reports (R12). -/
opaque Config.bcBlockSize : Nat

/-- How far `MAX_LEN` lies above 16. -/
opaque Config.maxLenSlack : Nat

/-- `MAX_LEN` (R14), at least 16: DEDUCED (log entry 2), since PAD and S2V write 16 bytes to `R_OUT`,
whose domain is `len ≤ MAX_LEN` (R33). -/
def Config.maxLen : Nat := Config.maxLenSlack + 16

/-- A key length the attached cipher rejects. -/
opaque Config.rejectedKeyLen : Nat

/-- A candidate for a key length the attached cipher accepts. -/
opaque Config.keyLenChoice : Nat

/-- A key length the attached cipher accepts: any length but the rejected one. -/
def Config.someKeyLen : Nat :=
  if Config.keyLenChoice = Config.rejectedKeyLen then Config.rejectedKeyLen + 1 else Config.keyLenChoice

/-- The other key lengths the attached cipher accepts. -/
opaque Config.otherKeyLens : Nat → Bool

/-- `KEY_OK` (R13), any set of lengths that has an element and misses a length: DEDUCED (log entry 3). -/
def Config.keyOk (n : Nat) : Bool := n == Config.someKeyLen || (n != Config.rejectedKeyLen && Config.otherKeyLens n)

/-- How many channels there are beside channel 0. -/
opaque Config.otherChannels : Nat

/-- `N_CH`, at least 1 (R16). -/
def Config.nCh : Nat := Config.otherChannels + 1

/-- The default `KEY_OK` for AES (R13). -/
def Config.keyOkAes (n : Nat) : Bool := n == 16 || n == 24 || n == 32

/-- The default `MAX_LEN` (R14). -/
def Config.maxLenDefault : Nat := 2 ^ 31 - 1

/-- The collaborators and bounds a command's result depends on (R67): `BC`, `CMAC`, `KEY_OK` and
`MAX_LEN`. The meanings are written over these; the machine runs them on the attached ones. -/
structure Params where
  bc     : Bytes → Block16 → Block16
  cmac   : Bytes → Bytes → Block16
  keyOk  : Nat → Bool
  maxLen : Nat

/-- The identity record of R3. -/
structure Identity where
  name      : String
  algorithm : String
  reference : String
  edition   : String
  deriving DecidableEq, Repr

/-- The block's identity (R3). -/
def Config.identity : Identity where
  name      := "SIV mode envelope block"
  algorithm := "RFC 5297 SIV"
  reference := "patrickfav/siv-mode"
  edition   := "reimplementation specification v7"

end Sys2Proof
end

