-- ==== Sys2Proof/Machine/Bits.lean ====
section
/-! DEFINITION. The bit primitives of spec/41_bitprims.md as functions on byte strings (R121, R126, R131, R136, R141, R146),
and the big-endian reading of spec/00_scope.md rule R19. -/

namespace Sys2Proof.Machine

/-- The unsigned value of a byte string read big-endian (R19, R54); `be64` on 8 bytes. -/
def beNat (s : Bytes) : Nat := s.foldl (fun acc b => 256 * acc + b.toNat) 0

/-- `to_be64`: the eight bytes of a number below `2^64`, most significant first (R19). -/
def toBe64 (v : Nat) : Bytes := (List.range 8).map fun j => BitVec.ofNat 8 (v / 256 ^ (7 - j))

/-- `s[i..j]`, half-open (R18). -/
def slice (s : Bytes) (i j : Nat) : Bytes := (s.take j).drop i

/-- `0^128`, sixteen zero bytes (R18). -/
def zeroBlock : Bytes := List.replicate 16 0

/-- A byte string as a `Block16`; the string itself where its length is 16, as it is at every use. -/
def toBlock (s : Bytes) : Block16 := Vector.ofFn fun i => s.getD i.val 0

/-- `xor(a, b)`, of the length of `a` under its precondition `len(a) ≤ len(b)` (R121). -/
def xorBytes (a b : Bytes) : Bytes := List.zipWith (· ^^^ ·) a b

/-- `xorend(a, b)`, under its precondition `len(a) ≥ len(b)` (R126). -/
def xorEnd (a b : Bytes) : Bytes :=
  let k := a.length - b.length
  a.take k ++ xorBytes (a.drop k) b

/-- `pad(s)`, under its precondition `len(s) < 16` (R131). -/
def padBlock (s : Bytes) : Bytes := s ++ 0x80 :: List.replicate (15 - s.length) 0

/-- The bytes of a big-endian left shift by one bit: bit 7 of each byte moves into bit 0 of the byte before it (R55, R136). -/
def shiftBytes : Bytes → Bytes
  | [] => []
  | [x] => [x <<< 1]
  | x :: y :: rest => ((x <<< 1) ||| (y >>> 7)) :: shiftBytes (y :: rest)

/-- The bit shifted out: bit 7 of byte 0 (R136). -/
def carryOf (blk : Bytes) : Bit := (blk.headD 0).extractLsb' 7 1

/-- `shift_left_1(block)`: the shifted block and the carry (R136). -/
def shiftLeft1 (blk : Bytes) : Bytes × Bit := (shiftBytes blk, carryOf blk)

/-- The mask `m = (0 − carry) mod 256`, byte-width (R141). -/
def carryMask (c : Bit) : Byte := 0 - c.setWidth 8

/-- `dbl(block)`: the shift, then the reduction constant `0x87` under the mask, XORed unconditionally into byte 15 (R141). -/
def dblBlock (blk : Bytes) : Bytes :=
  let (s, carry) := shiftLeft1 blk
  s.modify 15 fun x => x ^^^ (0x87 &&& carryMask carry)

/-- `ct_acc(u, v)`: the OR of `u[i] ⊕ v[i]` over all `i` (R146). -/
def ctAcc (u v : Bytes) : Byte := (xorBytes u v).foldl (· ||| ·) 0

end Sys2Proof.Machine
end

