-- ==== Sys2Proof/Machine/Adapter.lean ====
section
/-! DEFINITION. The block-cipher adapter and CMAC of spec/40_adapter.md (R100 to R106), and the collaborators the machine is
attached to. -/

namespace Sys2Proof.Machine

/-- One block under a key: `init(k)`, `process_block`, `reset()`, whose result depends on the key and the block alone (R101). -/
def encBlock (bc : Bytes → Block16 → Block16) (k x : Bytes) : Bytes := (bc k (toBlock x)).toList

/-- How many 16-byte blocks CMAC takes a message in: at least one (R104). -/
def cmacBlocks (m : Bytes) : Nat := max ((m.length + 15) / 16) 1

/-- The last CMAC block: complete and masked with `K1`, or padded and masked with `K2` (R104). -/
def cmacLast (k1 k2 m : Bytes) : Bytes :=
  let tail := m.drop (16 * (cmacBlocks m - 1))
  if m.length ≠ 0 ∧ m.length % 16 = 0 then xorBytes tail k1 else xorBytes (padBlock tail) k2

/-- The RFC 4493 construction over a block cipher (R104). PRESUMED (log entry 6): the spec gives it from general knowledge. -/
def cmacRfc4493 (bc : Bytes → Block16 → Block16) (k m : Bytes) : Block16 :=
  let l := encBlock bc k zeroBlock
  let k1 := dblBlock l
  let k2 := dblBlock k1
  let x := (List.range (cmacBlocks m - 1)).foldl
    (fun x i => encBlock bc k (xorBytes x (slice m (16 * i) (16 * i + 16)))) zeroBlock
  bc k (toBlock (xorBytes x (cmacLast k1 k2 m)))

/-- What the block is attached to: the parameters of R11, R13 and R14, and the CMAC built on the same cipher (R17, R104). -/
def attached : Params where
  bc     := Config.bc
  cmac   := cmacRfc4493 Config.bc
  keyOk  := Config.keyOk
  maxLen := Config.maxLen

end Sys2Proof.Machine
end

