-- ==== Sys2Proof/Machine/State.lean ====
section
/-! DEFINITION. The machine's state (spec/10_state.md rules R30 to R49), the host's state beside it (R37, R47), the faults
and refusals a step can end in, and the state after reset (R46, R260, R261). -/

namespace Sys2Proof.Machine

/-- The six operand ports of a channel (R31). -/
inductive Port where
  | ctrkey
  | mackey
  | a
  | b
  | ad
  | nb
  deriving DecidableEq, Repr

/-- The three result registers of a channel (R33). -/
inductive ResultReg where
  | out
  | carry
  | status
  deriving DecidableEq, Repr

/-- What a register id of R39 names: an operand port, a result register, or the command register. -/
inductive RegName where
  | port (p : Port)
  | result (r : ResultReg)
  | cmd
  deriving DecidableEq, Repr

/-- The seven status codes, and no other (R80, 93_implementation_defined.md I12). -/
inductive Status where
  | ok
  | configuration
  | invalidKey
  | invalidInput
  | invalidLength
  | unauthentic
  | illegalCommand
  deriving DecidableEq, Repr

/-- The cipher instance `CI[c]` (R40): unkeyed, or keyed with the key it last loaded (the key stands for its
schedule). No register shows it and no command reads it. Log entry 7. -/
inductive CipherInst where
  | unkeyed
  | keyed (key : Bytes)
  deriving DecidableEq, Repr

/-- The two model faults of R229. The step that meets one RECORDS it in the channel's `fault` field and is a
next state; every later step that would act on that channel ends in it (R231). Both are safe: the model
refuses a value that no source fixes (R45). -/
inductive Fault where
  /-- A command on channel `c` read the unset port `p` (R45). Recorded by a command's operand check (R225 step P3),
  raised by every later host action or command on channel `c`, and by a step of a host with no action left (R229). Safe. -/
  | unsetOperand (c : Nat) (p : Port)
  /-- The host read the unset result register `r` of channel `c` (R45), by READ, CPY or CPYAD. Recorded by that
  action, raised by every later host action or command on channel `c`, and by a step of a host with no action left (R229).
  Safe. -/
  | unsetResult (c : Nat) (r : ResultReg)
  deriving DecidableEq, Repr

/-- Why a step is refused: a move the spec does not give the host (R39, R47, R271 c), or an instruction without
a meaning yet. -/
inductive Refusal where
  /-- Raised by the dispatch for an instruction that has no meaning yet; no arm raises it now. Safe. -/
  | notModelled (mnemonic : String)
  /-- Raised by every host action and command on a channel number that is not below `N_CH` (R30). Safe. -/
  | noSuchChannel (c : Nat)
  /-- Raised by WRITE, CLEAR, READ and CPY of an id that R39 leaves unassigned. Safe. -/
  | unassignedId (c id : Nat)
  /-- Raised by WRITE, CLEAR and CPY of a register that the host may not write or clear (R39): a result
  register; for CLEAR and CPY the command register too. Safe. -/
  | notWritable (c id : Nat)
  /-- Raised by READ of an operand port or of `CMD` (R34, R39). Safe. -/
  | notReadable (c id : Nat)
  /-- Raised by WRITE of a value that is not in the register's domain (R31, R47). Safe. -/
  | outOfDomain (c id : Nat)
  /-- Raised by CPY to `P_AD` or `P_NB`, which R47 excludes. Safe. -/
  | cpyTarget (c id : Nat)
  /-- Raised by CPYAD when `P_AD` is unset, which R47 excludes. Safe. -/
  | cpyadUnsetAd (c : Nat)
  /-- Raised by CPYAD when its index is not the length of `P_AD`, which R47 requires. Safe. -/
  | cpyadIndex (c k : Nat)
  deriving DecidableEq, Repr

/-- One channel: R49's record, with the cipher instance of R40. `none` is *unset*, the reset value the spec
gives (R39, R45, R46). -/
structure Channel where
  ctrkey : Option Bytes
  mackey : Option Bytes
  a      : Option Bytes
  b      : Option Bytes
  ad     : Option (List Bytes)
  nb     : Option (BitVec 32)
  out    : Option Bytes
  carry  : Option Bit
  status : Option Status
  ci     : CipherInst
  /-- The first `UnsetOperand` or `UnsetResult` on the channel; once set, never cleared (R49, R229). -/
  fault  : Option Fault
  deriving DecidableEq, Repr

/-- A value the host offers to a register: a byte string, a list of them, or an unsigned integer (R31). -/
inductive PortValue where
  | bytes (v : Bytes)
  | list (v : List Bytes)
  | int (v : Nat)
  deriving DecidableEq, Repr

/-- A host action on channel `c` (R47). Registers are named by their ids of R39, so that an access to an
unassigned id can be written down, and refused. -/
inductive Action where
  | write (c id : Nat) (v : PortValue)
  | clear (c id : Nat)
  | issue (c : Nat) (w : Word)
  | read (c id : Nat)
  | cpy (c id : Nat)
  | cpyad (c k : Nat)
  deriving DecidableEq, Repr

/-- The value a READ returns (R33): the bytes of `R_OUT`, the bit of `R_CARRY`, the 8-bit code of `R_STATUS`. -/
inductive RegValue where
  | bytes (v : Bytes)
  | bit (v : Bit)
  | code (v : BitVec 8)
  deriving DecidableEq, Repr

/-- The state: R49's record `cfgOk` and `channels`, the current channel of R21, and the host's state (R37, R47). -/
structure State where
  /-- `CFG_OK` (R41). -/
  cfgOk    : Bool
  /-- Channel 0 first; `N_CH` of them (R30). -/
  channels : List Channel
  /-- The channel whose command runs: R21's "current channel". The model's own field (log entry 10). -/
  cur      : Nat
  /-- The host actions not yet performed, oldest first (R37, R47). The host's state (log entry 8). -/
  todo     : List Action
  /-- How many host actions have been performed: the index of R37. The host's state. -/
  index    : Nat
  /-- The values READ has returned, oldest first (R47). The host's state (log entry 8). -/
  reads    : List RegValue
  deriving DecidableEq, Repr

/-- A channel after reset: everything unset, the cipher unkeyed, no fault (R46, R260 step RS2). -/
def Channel.reset : Channel where
  ctrkey := none
  mackey := none
  a      := none
  b      := none
  ad     := none
  nb     := none
  out    := none
  carry  := none
  status := none
  ci     := .unkeyed
  fault  := none

/-- The machine right after reset (R260): the configuration check of R262, `N_CH` channels at their reset values,
and a host that has not acted. -/
def State.reset : State where
  cfgOk    := decide (Config.bcBlockSize = Config.block)
  channels := List.replicate Config.nCh Channel.reset
  cur      := 0
  todo     := []
  index    := 0
  reads    := []

end Sys2Proof.Machine
end

