-- ==== Sys2Proof/Machine/Ops.lean ====
section
/-! DEFINITION. The shared operations: reaching a channel, the two ways a command ends (spec/10_state.md rule R35,
spec/60_exceptions.md rule R223), recording a model fault (R229), and the common prologue of a command (R225). -/

namespace Sys2Proof.Machine

/-- Channel `c`, where there is one (R30). -/
def State.channel? (s : State) (c : Nat) : Option Channel := s.channels[c]?

/-- The state with channel `c` replaced. -/
def State.setChannel (s : State) (c : Nat) (ch : Channel) : State := { s with channels := s.channels.set c ch }

/-- The recorded fault of the lowest-numbered channel that has one (R229); none where no channel is faulted. -/
def State.fault? (s : State) : Option Fault := s.channels.findSome? (·.fault)

/-- A final state of a run: the host has no action left, and no channel is faulted (R229, log entry 25). -/
def State.final (s : State) : Bool := s.todo.isEmpty && s.fault?.isNone

/-- `raise K` (R223), the one way a command fails: `R_STATUS <- K`, `R_OUT <- ""`, and nothing else. -/
def Channel.raise (ch : Channel) (k : Status) : Channel := { ch with out := some [], status := some k }

/-- A command's success: `R_OUT` receives the result and `R_STATUS` the code OK (R35). -/
def Channel.succeed (ch : Channel) (v : Bytes) : Channel := { ch with out := some v, status := some .ok }

/-- Record a model fault (R229): no register of the block is written. -/
def Channel.recordFault (ch : Channel) (f : Fault) : Channel := { ch with fault := some f }

/-- How the steps of a command end: with a `raise` or with a result, and the cipher instance as it then is (R22, R223). -/
inductive Ending where
  | raised (k : Status) (ci : CipherInst)
  | done (v : Bytes) (ci : CipherInst)
  deriving DecidableEq, Repr

/-- Steps followed by more steps on their result: a `raise` ends the calling command (R22, R234). -/
def Ending.andThen (e : Ending) (k : Bytes → CipherInst → Ending) : Ending :=
  match e with
  | .raised st ci => .raised st ci
  | .done v ci => k v ci

/-- Write the result registers at the end of a command (R35, R57). -/
def Channel.finish (ch : Channel) (e : Ending) : Channel :=
  match e with
  | .raised k ci => { ch with ci := ci }.raise k
  | .done v ci => { ch with ci := ci }.succeed v

/-- Act on channel `c`: refused where there is no such channel, ended by the recorded fault where there is one (R231). -/
def onChannel (s : State) (c : Nat) (k : Channel → Host.Outcome State Fault Refusal) : Host.Outcome State Fault Refusal :=
  match s.channel? c with
  | none => .refused (.noSuchChannel c)
  | some ch =>
    match ch.fault with
    | some f => .fault f
    | none => k ch

/-- A command on the current channel: step P1 of R225, the configuration check, then `f`, which reads and writes that
channel alone (R48). The whole is one transition (R60). -/
def runCommand (s : State) (f : Nat → Channel → Channel) : Host.Outcome State Fault Refusal :=
  onChannel s s.cur fun ch =>
    .next (s.setChannel s.cur (if s.cfgOk then f s.cur ch else ch.raise .configuration))

/-- An illegal word (R76): after the configuration check, `ILLEGAL_COMMAND`; no port is read. -/
def runIllegal (s : State) : Host.Outcome State Fault Refusal :=
  runCommand s fun _ ch => ch.raise .illegalCommand

end Sys2Proof.Machine
end

