-- ==== Sys2Proof/Machine/Operands.lean ====
section
/-! DEFINITION. Operands: which ports a command reads (spec/30_encoding.md rule R74), and reading one of them (spec/60_exceptions.md
rule R225 step P3). -/

namespace Sys2Proof.Machine

/-- The ports a command reads, in the order of R74. -/
def portsRead : Instr → List Port
  | .xor | .xorend | .cteq => [.a, .b]
  | .pad | .shl1 | .dbl => [.a]
  | .s2v => [.mackey, .a, .ad]
  | .ctr => [.ctrkey, .a, .nb]
  | .seal_ | .open_ => [.ctrkey, .mackey, .a, .ad]

/-- A port holds a value (R45). -/
def Channel.isSet (ch : Channel) : Port → Bool
  | .ctrkey => ch.ctrkey.isSome
  | .mackey => ch.mackey.isSome
  | .a => ch.a.isSome
  | .b => ch.b.isSome
  | .ad => ch.ad.isSome
  | .nb => ch.nb.isSome

/-- Step P3 of R225 for one port `p` of channel `c`, whose content is `v`: an unset port records `UnsetOperand(c, p)` and stops;
a value is passed on, as the snapshot the whole command uses (R57). -/
def operand {α : Type} (c : Nat) (ch : Channel) (p : Port) (v : Option α) (k : α → Channel) : Channel :=
  match v with
  | none => ch.recordFault (.unsetOperand c p)
  | some x => k x

end Sys2Proof.Machine
end

