-- ==== Sys2Proof/Machine/S2v.lean ====
section
/-! DEFINITION. The S2V synthetic-IV generator and its command (spec/42_s2v.md). -/

namespace Sys2Proof.Machine

/-- Keying the cipher instance with an accepted key (R102, R107); a rejected one leaves it as it was (log entry 7) and raises
`INVALID_KEY`. -/
def rekey (P : Params) (k : Bytes) (ci : CipherInst) (steps : CipherInst → Ending) : Ending :=
  if P.keyOk k.length then steps (.keyed k) else .raised .invalidKey ci

/-- Steps S3 and S4 of R150: the chain value after the associated data, `mac` being `CMAC` under the key. -/
def s2vChain (mac : Bytes → Bytes) (ad : List Bytes) : Bytes :=
  ad.foldl (fun d x => xorBytes (dblBlock d) (mac x)) (mac zeroBlock)

/-- Step S5 of R150: the final MAC input. -/
def s2vFinal (d pt : Bytes) : Bytes :=
  if pt.length ≥ 16 then xorEnd pt d else xorBytes (dblBlock d) (padBlock pt)

/-- `CMAC` under one key, as a function on byte strings: each use is a complete MAC of one string (R105). -/
def macUnder (P : Params) (km m : Bytes) : Bytes := (P.cmac km m).toList

/-- The strings S2V computes a CMAC of, in order (R150, R156): the zero block, each element of the vector, the final input. -/
def s2vMacInputs (mac : Bytes → Bytes) (pt : Bytes) (ad : List Bytes) : List Bytes :=
  zeroBlock :: ad ++ [s2vFinal (s2vChain mac ad) pt]

/-- Steps S3 to S6 of R150: the tag. -/
def s2vTag (mac : Bytes → Bytes) (pt : Bytes) (ad : List Bytes) : Bytes := mac (s2vFinal (s2vChain mac ad) pt)

/-- `s2v(mac_key, pt, ad)` (R150): the count (S1) before the key (S2), as R153 says. -/
def s2vPhase (P : Params) (km pt : Bytes) (ad : List Bytes) (ci : CipherInst) : Ending :=
  if ad.length > Config.maxAd then .raised .invalidInput ci
  else rekey P km ci fun ci => .done (s2vTag (macUnder P km) pt ad) ci

/-- The command S2V on one channel (R155), over any collaborators. -/
def s2vOn (P : Params) (c : Nat) (ch : Channel) : Channel :=
  operand c ch .mackey ch.mackey fun km =>
  operand c ch .a ch.a fun pt =>
  operand c ch .ad ch.ad fun ad =>
  ch.finish (s2vPhase P km pt ad ch.ci)

/-- S2V (R155). -/
def execS2v (s : State) : Host.Outcome State Fault Refusal := runCommand s (s2vOn attached)

end Sys2Proof.Machine
end

