-- ==== Sys2Proof/Machine/Ctr.lean ====
section
/-! DEFINITION. The CTR keystream generator and its command (spec/43_ctr.md). -/

namespace Sys2Proof.Machine

/-- Steps K2 and K3 of R170: the copy of the IV with bit 7 of byte 8 and of byte 12 cleared. -/
def maskCounter (iv : Bytes) : Bytes := (iv.modify 8 (· &&& 0x7F)).modify 12 (· &&& 0x7F)

/-- Step K4 of R170: the counter's start `c0`, bytes 8 to 15 of the masked copy read big-endian. -/
def counterStart (iv : Bytes) : Nat := beNat (slice (maskCounter iv) 8 16)

/-- The counter block of step K5 for block `i`: bytes 0 to 7 of the IV, then `(c0 + i) mod 2^64` big-endian (R170, R171). -/
def counterBlock (iv : Bytes) (i : Nat) : Bytes := iv.take 8 ++ toBe64 ((counterStart iv + i) % 2 ^ 64)

/-- The counter blocks of `nb` blocks of keystream, in order: the inputs of the calls to `BC` (R170, R281). -/
def counterBlocks (iv : Bytes) (nb : Nat) : List Bytes := (List.range nb).map (counterBlock iv)

/-- Steps K2 to K6 of R170: the keystream, `enc` being `BC` under the key. -/
def ctrKeystream (enc : Bytes → Bytes) (iv : Bytes) (nb : Nat) : Bytes := (counterBlocks iv nb).flatMap enc

/-- `BC` under one key, as a function on byte strings (R101). -/
def encUnder (P : Params) (kc x : Bytes) : Bytes := encBlock P.bc kc x

/-- `ctr_ks(ctr_key, iv, nb)` (R170): the key is checked for every `nb` (R173). -/
def ctrPhase (P : Params) (kc iv : Bytes) (nb : Nat) (ci : CipherInst) : Ending :=
  rekey P kc ci fun ci => .done (ctrKeystream (encUnder P kc) iv nb) ci

/-- The steps of CTR (R175). -/
def ctrSteps (P : Params) (kc iv : Bytes) (nb : Nat) (ci : CipherInst) : Ending :=
  if iv.length ≠ 16 then .raised .invalidInput ci
  else if nb * 16 > P.maxLen then .raised .invalidInput ci
  else ctrPhase P kc iv nb ci

/-- The command CTR on one channel (R175), over any collaborators. -/
def ctrOn (P : Params) (c : Nat) (ch : Channel) : Channel :=
  operand c ch .ctrkey ch.ctrkey fun kc =>
  operand c ch .a ch.a fun iv =>
  operand c ch .nb ch.nb fun nb =>
  ch.finish (ctrSteps P kc iv nb.toNat ch.ci)

/-- CTR (R175). -/
def execCtr (s : State) : Host.Outcome State Fault Refusal := runCommand s (ctrOn attached)

end Sys2Proof.Machine
end

