-- ==== Sys2Proof/Machine/Envelope.lean ====
section
/-! DEFINITION. The envelope commands SEAL and OPEN (spec/44_envelope.md). -/

namespace Sys2Proof.Machine

/-- `ceil(n / 16)` (R190 step 2, R200 step 3). -/
def blocksFor (n : Nat) : Nat := (n + 15) / 16

/-- The steps of SEAL (R190); step 1's bound `MAX_LEN − 16` is taken as a difference of integers. -/
def sealSteps (P : Params) (kc km pt : Bytes) (ad : List Bytes) (ci : CipherInst) : Ending :=
  if pt.length + 16 > P.maxLen then .raised .invalidInput ci
  else
    (s2vPhase P km pt ad ci).andThen fun iv ci =>
    (ctrPhase P kc iv (blocksFor pt.length) ci).andThen fun ks ci =>
    .done (iv ++ xorBytes pt ks) ci

/-- The command SEAL on one channel (R190), over any collaborators. -/
def sealOn (P : Params) (c : Nat) (ch : Channel) : Channel :=
  operand c ch .ctrkey ch.ctrkey fun kc =>
  operand c ch .mackey ch.mackey fun km =>
  operand c ch .a ch.a fun pt =>
  operand c ch .ad ch.ad fun ad =>
  ch.finish (sealSteps P kc km pt ad ch.ci)

/-- SEAL (R190). -/
def execSeal (s : State) : Host.Outcome State Fault Refusal := runCommand s (sealOn attached)

/-- The steps of OPEN (R200): the plaintext is a working value until the compare has passed (R201). -/
def openSteps (P : Params) (kc km input : Bytes) (ad : List Bytes) (ci : CipherInst) : Ending :=
  if input.length < 16 then .raised .invalidLength ci
  else
    let iv := input.take 16
    let ct := input.drop 16
    (ctrPhase P kc iv (blocksFor ct.length) ci).andThen fun ks ci =>
    let pt := xorBytes ct ks
    (s2vPhase P km pt ad ci).andThen fun iv' ci =>
    if ctAcc iv iv' ≠ 0 then .raised .unauthentic ci else .done pt ci

/-- The command OPEN on one channel (R200), over any collaborators. -/
def openOn (P : Params) (c : Nat) (ch : Channel) : Channel :=
  operand c ch .ctrkey ch.ctrkey fun kc =>
  operand c ch .mackey ch.mackey fun km =>
  operand c ch .a ch.a fun input =>
  operand c ch .ad ch.ad fun ad =>
  ch.finish (openSteps P kc km input ad ch.ci)

/-- OPEN (R200). -/
def execOpen (s : State) : Host.Outcome State Fault Refusal := runCommand s (openOn attached)

end Sys2Proof.Machine
end

