-- ==== Sys2Proof/Machine/Primitives.lean ====
section
/-! DEFINITION. The commands XOR, XOREND, PAD, SHL1, DBL and CTEQ (spec/41_bitprims.md). None uses a key or the cipher (R120). -/

namespace Sys2Proof.Machine

/-- The steps of XOR (R122). -/
def xorSteps (a b : Bytes) (ci : CipherInst) : Ending :=
  if a.length > b.length then .raised .invalidInput ci else .done (xorBytes a b) ci

/-- XOR on one channel (R122). -/
def xorOn (c : Nat) (ch : Channel) : Channel :=
  operand c ch .a ch.a fun a =>
  operand c ch .b ch.b fun b =>
  ch.finish (xorSteps a b ch.ci)

/-- XOR (R122). -/
def execXor (s : State) : Host.Outcome State Fault Refusal := runCommand s xorOn

/-- The steps of XOREND (R127). -/
def xorendSteps (a b : Bytes) (ci : CipherInst) : Ending :=
  if a.length < b.length then .raised .invalidInput ci else .done (xorEnd a b) ci

/-- XOREND on one channel (R127). -/
def xorendOn (c : Nat) (ch : Channel) : Channel :=
  operand c ch .a ch.a fun a =>
  operand c ch .b ch.b fun b =>
  ch.finish (xorendSteps a b ch.ci)

/-- XOREND (R127). -/
def execXorend (s : State) : Host.Outcome State Fault Refusal := runCommand s xorendOn

/-- The steps of PAD (R132). -/
def padSteps (a : Bytes) (ci : CipherInst) : Ending :=
  if a.length ≥ 16 then .raised .invalidInput ci else .done (padBlock a) ci

/-- PAD on one channel (R132). -/
def padOn (c : Nat) (ch : Channel) : Channel :=
  operand c ch .a ch.a fun a =>
  ch.finish (padSteps a ch.ci)

/-- PAD (R132). -/
def execPad (s : State) : Host.Outcome State Fault Refusal := runCommand s padOn

/-- The steps of SHL1 on a channel whose `P_A` holds `blk` (R137): the only command that writes `R_CARRY`, and only where it succeeds. -/
def shl1Steps (ch : Channel) (blk : Bytes) : Channel :=
  if blk.length ≠ 16 then ch.raise .invalidInput
  else { ch.succeed (shiftLeft1 blk).1 with carry := some (shiftLeft1 blk).2 }

/-- SHL1 on one channel (R137). -/
def shl1On (c : Nat) (ch : Channel) : Channel :=
  operand c ch .a ch.a fun a =>
  shl1Steps ch a

/-- SHL1 (R137). -/
def execShl1 (s : State) : Host.Outcome State Fault Refusal := runCommand s shl1On

/-- The steps of DBL (R142); its carry is not written. -/
def dblSteps (a : Bytes) (ci : CipherInst) : Ending :=
  if a.length ≠ 16 then .raised .invalidInput ci else .done (dblBlock a) ci

/-- DBL on one channel (R142). -/
def dblOn (c : Nat) (ch : Channel) : Channel :=
  operand c ch .a ch.a fun a =>
  ch.finish (dblSteps a ch.ci)

/-- DBL (R142). -/
def execDbl (s : State) : Host.Outcome State Fault Refusal := runCommand s dblOn

/-- The steps of CTEQ (R147): one byte, the accumulator, with status OK whether or not the values are equal. -/
def cteqSteps (a b : Bytes) (ci : CipherInst) : Ending :=
  if a.length ≠ 16 ∨ b.length ≠ 16 then .raised .invalidInput ci else .done [ctAcc a b] ci

/-- CTEQ on one channel (R147). -/
def cteqOn (c : Nat) (ch : Channel) : Channel :=
  operand c ch .a ch.a fun a =>
  operand c ch .b ch.b fun b =>
  ch.finish (cteqSteps a b ch.ci)

/-- CTEQ (R147). -/
def execCteq (s : State) : Host.Outcome State Fault Refusal := runCommand s cteqOn

end Sys2Proof.Machine
end

