-- ==== Sys2Proof/Machine/Dispatch.lean ====
section
/-! DEFINITION. One arm per command of the opcode table. -/

namespace Sys2Proof.Machine

def exec (i : Instr) (s : State) : Host.Outcome State Fault Refusal :=
  match i with
  | .xor => Sys2Proof.Machine.execXor s
  | .xorend => Sys2Proof.Machine.execXorend s
  | .pad => Sys2Proof.Machine.execPad s
  | .shl1 => Sys2Proof.Machine.execShl1 s
  | .dbl => Sys2Proof.Machine.execDbl s
  | .cteq => Sys2Proof.Machine.execCteq s
  | .s2v => Sys2Proof.Machine.execS2v s
  | .ctr => Sys2Proof.Machine.execCtr s
  | .seal_ => Sys2Proof.Machine.execSeal s
  | .open_ => Sys2Proof.Machine.execOpen s

end Sys2Proof.Machine
end

