-- ==== Sys2Proof/Machine/Flags.lean ====
section
/-! DEFINITION. The status codes (spec/30_encoding.md rule R80). The one flag, `R_CARRY`, is `carryOf` of the operand of
SHL1 (R38, R136). -/

namespace Sys2Proof.Machine

/-- The 8-bit code of a status (R80). -/
def Status.code : Status → BitVec 8
  | .ok => 0x00
  | .configuration => 0x01
  | .invalidKey => 0x02
  | .invalidInput => 0x03
  | .invalidLength => 0x04
  | .unauthentic => 0x05
  | .illegalCommand => 0x06

end Sys2Proof.Machine
end

