-- ==== Sys2Proof/Machine/HostActions.lean ====
section
/-! DEFINITION. The host's actions on a channel, but for ISSUE (spec/10_state.md rules R39, R45, R47). -/

namespace Sys2Proof.Machine

/-- The register map of one channel (R39); none where the id is unassigned. -/
def register? : Nat → Option RegName
  | 0 => some (.port .ctrkey)
  | 1 => some (.port .mackey)
  | 2 => some (.port .a)
  | 3 => some (.port .b)
  | 4 => some (.port .ad)
  | 5 => some (.port .nb)
  | 8 => some (.result .out)
  | 9 => some (.result .carry)
  | 10 => some (.result .status)
  | 12 => some .cmd
  | _ => none

/-- `p <- v` for a value in the port's domain (R31); none for any other. -/
def Channel.writePort? (maxLen : Nat) (ch : Channel) (p : Port) (v : PortValue) : Option Channel :=
  match p, v with
  | .ctrkey, .bytes x => if x.length ≤ maxLen then some { ch with ctrkey := some x } else none
  | .mackey, .bytes x => if x.length ≤ maxLen then some { ch with mackey := some x } else none
  | .a, .bytes x => if x.length ≤ maxLen then some { ch with a := some x } else none
  | .b, .bytes x => if x.length ≤ maxLen then some { ch with b := some x } else none
  | .ad, .list l => if l.all (fun x => decide (x.length ≤ maxLen)) then some { ch with ad := some l } else none
  | .nb, .int n => if n < 2 ^ 32 then some { ch with nb := some (BitVec.ofNat 32 n) } else none
  | _, _ => none

/-- `p <- unset` (R47). -/
def Channel.clearPort (ch : Channel) : Port → Channel
  | .ctrkey => { ch with ctrkey := none }
  | .mackey => { ch with mackey := none }
  | .a => { ch with a := none }
  | .b => { ch with b := none }
  | .ad => { ch with ad := none }
  | .nb => { ch with nb := none }

/-- The value a read of a result register gives; none where the register is unset (R33, R45). -/
def Channel.readResult? (ch : Channel) : ResultReg → Option RegValue
  | .out => ch.out.map .bytes
  | .carry => ch.carry.map .bit
  | .status => ch.status.map fun st => .code st.code

/-- WRITE of an operand port (R47). A write of `CMD` is an ISSUE (R34) and is performed as one. -/
def doWrite (c id : Nat) (v : PortValue) (s : State) : Host.Outcome State Fault Refusal :=
  onChannel s c fun ch =>
    match register? id with
    | some (.port p) =>
      match ch.writePort? Config.maxLen p v with
      | some ch' => .next (s.setChannel c ch')
      | none => .refused (.outOfDomain c id)
    | some (.result _) => .refused (.notWritable c id)
    | some .cmd => .refused (.outOfDomain c id)
    | none => .refused (.unassignedId c id)

/-- CLEAR (R47). -/
def doClear (c id : Nat) (s : State) : Host.Outcome State Fault Refusal :=
  onChannel s c fun ch =>
    match register? id with
    | some (.port p) => .next (s.setChannel c (ch.clearPort p))
    | some (.result _) | some .cmd => .refused (.notWritable c id)
    | none => .refused (.unassignedId c id)

/-- READ (R47): the value goes to the host; a read of an unset result register records `UnsetResult` (R45). -/
def doRead (c id : Nat) (s : State) : Host.Outcome State Fault Refusal :=
  onChannel s c fun ch =>
    match register? id with
    | some (.result r) =>
      match ch.readResult? r with
      | some v => .next { s with reads := s.reads ++ [v] }
      | none => .next (s.setChannel c (ch.recordFault (.unsetResult c r)))
    | some (.port _) | some .cmd => .refused (.notReadable c id)
    | none => .refused (.unassignedId c id)

/-- The port named by a CPY (R47): `P_AD` and `P_NB` are excluded. -/
def Channel.copyTo? (ch : Channel) (p : Port) (v : Bytes) : Option Channel :=
  match p with
  | .ctrkey => some { ch with ctrkey := some v }
  | .mackey => some { ch with mackey := some v }
  | .a => some { ch with a := some v }
  | .b => some { ch with b := some v }
  | .ad => none
  | .nb => none

/-- CPY (R47): `p <- R_OUT`. It reads `R_OUT`, so an unset `R_OUT` records `UnsetResult` (log entry 13). -/
def doCpy (c id : Nat) (s : State) : Host.Outcome State Fault Refusal :=
  onChannel s c fun ch =>
    match register? id with
    | some (.port p) =>
      match ch.copyTo? p (ch.out.getD []), ch.out with
      | none, _ => .refused (.cpyTarget c id)
      | some _, none => .next (s.setChannel c (ch.recordFault (.unsetResult c .out)))
      | some ch', some _ => .next (s.setChannel c ch')
    | some (.result _) | some .cmd => .refused (.notWritable c id)
    | none => .refused (.unassignedId c id)

/-- CPYAD (R47): appends `R_OUT` as element `k` of `P_AD`, where `k` is the length of `P_AD`. -/
def doCpyad (c k : Nat) (s : State) : Host.Outcome State Fault Refusal :=
  onChannel s c fun ch =>
    match ch.ad with
    | none => .refused (.cpyadUnsetAd c)
    | some l =>
      if k = l.length then
        match ch.out with
        | none => .next (s.setChannel c (ch.recordFault (.unsetResult c .out)))
        | some v => .next (s.setChannel c { ch with ad := some (l ++ [v]) })
      else .refused (.cpyadIndex c k)

end Sys2Proof.Machine
end

