-- ==== Sys2Proof/Machine/Issue.lean ====
section
/-! DEFINITION. ISSUE, and performing the host's next action (spec/10_state.md rules R34, R37, R47, spec/60_exceptions.md
rule R225). -/

namespace Sys2Proof.Machine

/-- `ISSUE(c, w)` (R47): channel `c` becomes the current one, and the engine executes the command `w` encodes, or answers an
illegal word (R76). -/
def issue (c : Nat) (w : Word) (s : State) : Host.Outcome State Fault Refusal :=
  match decode w with
  | .ok i => exec i { s with cur := c }
  | .error _ => runIllegal { s with cur := c }

/-- A write to a register id: a 32-bit word written to `CMD` (id 12) issues it (R34, R39); anything else is a WRITE. -/
def writeOrIssue (c id : Nat) (v : PortValue) (s : State) : Host.Outcome State Fault Refusal :=
  match register? id, v with
  | some .cmd, .int n => if n < 2 ^ 32 then issue c (BitVec.ofNat 32 n) s else doWrite c id v s
  | _, _ => doWrite c id v s

/-- One host action (R47). -/
def perform (act : Action) (s : State) : Host.Outcome State Fault Refusal :=
  match act with
  | .write c id v => writeOrIssue c id v s
  | .clear c id => doClear c id s
  | .issue c w => issue c w s
  | .read c id => doRead c id s
  | .cpy c id => doCpy c id s
  | .cpyad c k => doCpyad c k s

/-- The host takes its next action from its program and its index advances by one (R37). With no action left a run rests in
a state without a fault (log entry 9); a faulted state is never final, and the run ends in the fault (R229, log entry 25). -/
def hostStep (s : State) : Host.Outcome State Fault Refusal :=
  match s.todo with
  | [] =>
    match s.fault? with
    | none => .next s
    | some f => .fault f
  | act :: rest => perform act { s with todo := rest, index := s.index + 1 }

end Sys2Proof.Machine
end

