-- ==== Sys2Proof/Machine/Step.lean ====
section
/-! DEFINITION. One step of the machine: the host's next action (spec/10_state.md rules R37, R47). -/

namespace Sys2Proof.Machine

/-- One step. The block fetches nothing and acts only when the host does (R37). -/
def step (s : State) : Host.Outcome State Fault Refusal := hostStep s

/-- `s` with a host about to issue a word of the opcode table on channel 0: the block's next step runs it. -/
def State.withFetchWord (s : State) (nbits w : Nat) : State :=
  { s with todo := .issue 0 (tableWord nbits w) :: s.todo }

end Sys2Proof.Machine
end

