-- ==== Sys2Proof/Machine/Asm.lean ====
section
/-! DEFINITION. The assembler syntax of host programs and its macros (spec/30_encoding.md rules R85, R86): from text to the
host actions of spec/10_state.md rule R47. -/

namespace Sys2Proof.Machine

/-- What a line of a host program asks for: the actions of R85 and the macros of R86. -/
inductive AsmOp where
  | command (i : Instr)
  | word (w : Word)
  | wr (p : Port) (v : PortValue)
  | clr (p : Port)
  | rd (r : ResultReg)
  | cpy (p : Port)
  | cpyad
  | sealK (kc km pt : PortValue) (ad : PortValue)
  | openK (kc km input : PortValue) (ad : PortValue)
  | s2vK (km pt : PortValue) (ad : PortValue)
  | ctrK (kc iv n : PortValue)
  | wipe
  | nop
  deriving DecidableEq, Repr

/-- One line: the channel it names (channel 0 unless it starts `@c:`) and what it asks for (R85). -/
structure AsmLine where
  chan : Nat
  op   : AsmOp
  deriving DecidableEq, Repr

/-- The id of a port (R39). -/
def Port.id : Port → Nat
  | .ctrkey => 0
  | .mackey => 1
  | .a => 2
  | .b => 3
  | .ad => 4
  | .nb => 5

/-- The id of a result register (R39). -/
def ResultReg.id : ResultReg → Nat
  | .out => 8
  | .carry => 9
  | .status => 10

/-- The expansion of a macro (R86); any other operation stands for itself. -/
def AsmOp.expand : AsmOp → List AsmOp
  | .sealK kc km pt ad => [.wr .ctrkey kc, .wr .mackey km, .wr .a pt, .wr .ad ad, .command .seal_]
  | .openK kc km input ad => [.wr .ctrkey kc, .wr .mackey km, .wr .a input, .wr .ad ad, .command .open_]
  | .s2vK km pt ad => [.wr .mackey km, .wr .a pt, .wr .ad ad, .command .s2v]
  | .ctrK kc iv n => [.wr .ctrkey kc, .wr .a iv, .wr .nb n, .command .ctr]
  | .wipe => [.clr .ctrkey, .clr .mackey]
  | .nop => []
  | op => [op]

/-- The host action of an operation that is no macro, on channel `c`, where `adLen` is the length the program has given that
channel's `P_AD` so far; none for a macro, and for a `cpyad` whose index is not known (log entry 20). -/
def AsmOp.action? (c : Nat) (adLen : Option Nat) : AsmOp → Option Action
  | .command i => some (.issue c (encode i))
  | .word w => some (.issue c w)
  | .wr p v => some (.write c p.id v)
  | .clr p => some (.clear c p.id)
  | .rd r => some (.read c r.id)
  | .cpy p => some (.cpy c p.id)
  | .cpyad => adLen.map (.cpyad c)
  | _ => none

/-- The length of `P_AD` after an operation, as far as the program's text tells. -/
def AsmOp.adLenAfter (adLen : Option Nat) : AsmOp → Option Nat
  | .wr .ad (.list l) => some l.length
  | .wr .ad _ => none
  | .clr .ad => none
  | .cpyad => adLen.map (· + 1)
  | _ => adLen

/-- The host actions of expanded lines; `lens` gives each channel's `P_AD` length as far as it is known. -/
def actionsFrom (lens : Nat → Option Nat) : List (Nat × AsmOp) → Option (List Action)
  | [] => some []
  | (c, op) :: rest =>
    match op.action? c (lens c) with
    | none => none
    | some act =>
      (actionsFrom (fun d => if d = c then op.adLenAfter (lens c) else lens d) rest).map (act :: ·)

/-- A program's lines as host actions: macros expanded, in order. -/
def actionsOf (ls : List AsmLine) : Option (List Action) :=
  actionsFrom (fun _ => none) (ls.flatMap fun l => l.op.expand.map fun op => (l.chan, op))

/-- The tokens of a line: a word, a byte string `h'…'`, or a mark. -/
inductive Token where
  | word (s : List Char)
  | bytes (v : Bytes)
  | comma
  | lbrack
  | rbrack
  | at
  | colon
  deriving DecidableEq, Repr

/-- The value of a hexadecimal digit. -/
def hexDigit? (c : Char) : Option Nat :=
  let n := c.toNat
  if 48 ≤ n ∧ n ≤ 57 then some (n - 48)
  else if 97 ≤ n ∧ n ≤ 102 then some (n - 87)
  else if 65 ≤ n ∧ n ≤ 70 then some (n - 55)
  else none

/-- The value of a decimal digit. -/
def decDigit? (c : Char) : Option Nat :=
  let n := c.toNat
  if 48 ≤ n ∧ n ≤ 57 then some (n - 48) else none

/-- Bytes from an even count of hexadecimal digits, most significant digit of each byte first; none for an odd count. -/
def bytesOfDigits? : List Nat → Option Bytes
  | [] => some []
  | h :: l :: rest => (bytesOfDigits? rest).map (BitVec.ofNat 8 (16 * h + l) :: ·)
  | [_] => none

/-- A number from digits in a base, most significant first; none where a digit fails or there is none. -/
def numberOf? (base : Nat) (digit? : Char → Option Nat) : List Char → Option Nat
  | [] => none
  | cs => cs.foldl (fun acc c => acc.bind fun n => (digit? c).map fun d => base * n + d) (some 0)

/-- Where the reader of a line stands: outside a byte string with the letters of the word so far, or inside one with the
digits so far; both last first. -/
inductive LexMode where
  | plain (acc : List Char)
  | hex (digits : List Nat)
  deriving DecidableEq, Repr

/-- The word read so far, where there is one. -/
def flushWord (acc : List Char) : List Token := if acc.isEmpty then [] else [.word acc.reverse]

/-- The tokens of a line, up to a `;` outside a byte string (R85). -/
def lex : LexMode → List Char → Option (List Token)
  | .plain acc, [] => some (flushWord acc)
  | .hex _, [] => none
  | .plain acc, c :: cs =>
    let n := c.toNat
    if n = 59 then some (flushWord acc)
    else if n = 39 then (if acc = ['h'] then lex (.hex []) cs else none)
    else if n = 32 ∨ n = 9 then (lex (.plain []) cs).map (flushWord acc ++ ·)
    else if n = 44 then (lex (.plain []) cs).map (flushWord acc ++ .comma :: ·)
    else if n = 91 then (lex (.plain []) cs).map (flushWord acc ++ .lbrack :: ·)
    else if n = 93 then (lex (.plain []) cs).map (flushWord acc ++ .rbrack :: ·)
    else if n = 64 then (lex (.plain []) cs).map (flushWord acc ++ .at :: ·)
    else if n = 58 then (lex (.plain []) cs).map (flushWord acc ++ .colon :: ·)
    else lex (.plain (c :: acc)) cs
  | .hex ds, c :: cs =>
    let n := c.toNat
    if n = 39 then
      (bytesOfDigits? ds.reverse).bind fun v => (lex (.plain []) cs).map (.bytes v :: ·)
    else if n = 32 then lex (.hex ds) cs
    else (hexDigit? c).bind fun d => lex (.hex (d :: ds)) cs

/-- A port by its name in R85. -/
def portNamed? (s : List Char) : Option Port :=
  if s = "ctrkey".toList then some .ctrkey
  else if s = "mackey".toList then some .mackey
  else if s = "a".toList then some .a
  else if s = "b".toList then some .b
  else if s = "ad".toList then some .ad
  else if s = "nb".toList then some .nb
  else none

/-- A result register by its name in R85. -/
def resultNamed? (s : List Char) : Option ResultReg :=
  if s = "out".toList then some .out
  else if s = "carry".toList then some .carry
  else if s = "status".toList then some .status
  else none

/-- A command by its mnemonic (R75, R85). -/
def commandNamed? (s : List Char) : Option Instr :=
  if s = "xor".toList then some .xor
  else if s = "xorend".toList then some .xorend
  else if s = "pad".toList then some .pad
  else if s = "shl1".toList then some .shl1
  else if s = "dbl".toList then some .dbl
  else if s = "cteq".toList then some .cteq
  else if s = "s2v".toList then some .s2v
  else if s = "ctr".toList then some .ctr
  else if s = "seal".toList then some .seal_
  else if s = "open".toList then some .open_
  else none

/-- The elements of a list value after its opening bracket, and the tokens after its closing one. -/
def listTail? : List Token → Option (List Bytes × List Token)
  | .bytes v :: .rbrack :: rest => some ([v], rest)
  | .bytes v :: .comma :: rest => (listTail? rest).map fun r => (v :: r.1, r.2)
  | _ => none

/-- A value (R85), and the tokens after it. -/
def value? : List Token → Option (PortValue × List Token)
  | .bytes v :: rest => some (.bytes v, rest)
  | .lbrack :: .rbrack :: rest => some (.list [], rest)
  | .lbrack :: rest => (listTail? rest).map fun r => (.list r.1, r.2)
  | .word s :: rest => (numberOf? 10 decDigit? s).map fun n => (.int n, rest)
  | _ => none

/-- Exactly `n` values with a comma between each two, and nothing after them. -/
def values? : Nat → List Token → Option (List PortValue)
  | 0, [] => some []
  | 0, _ => none
  | n + 1, ts =>
    match value? ts with
    | none => none
    | some (v, rest) =>
      match n, rest with
      | 0, [] => some [v]
      | k + 1, .comma :: rest => (values? (k + 1) rest).map (v :: ·)
      | _, _ => none

/-- A word `0xHHHHHHHH` (R85). -/
def wordOf? : List Char → Option Word
  | '0' :: 'x' :: ds => if ds.length = 8 then (numberOf? 16 hexDigit? ds).map (BitVec.ofNat 32) else none
  | _ => none

/-- An operation from the tokens of a line (R85, R86). -/
def asmOp? : List Token → Option AsmOp
  | [.word s] =>
    if s = "cpyad".toList then some .cpyad
    else if s = "wipe".toList then some .wipe
    else if s = "nop".toList then some .nop
    else (commandNamed? s).map .command
  | .word s :: args =>
    if s = ".word".toList then
      match args with
      | [.word w] => (wordOf? w).map .word
      | _ => none
    else if s = "wr".toList then
      match args with
      | .word p :: .comma :: rest => (portNamed? p).bind fun p =>
        match values? 1 rest with
        | some [v] => some (.wr p v)
        | _ => none
      | _ => none
    else if s = "clr".toList then
      match args with
      | [.word p] => (portNamed? p).map .clr
      | _ => none
    else if s = "rd".toList then
      match args with
      | [.word r] => (resultNamed? r).map .rd
      | _ => none
    else if s = "cpy".toList then
      match args with
      | [.word p] => (portNamed? p).bind fun p => if p = .ad ∨ p = .nb then none else some (.cpy p)
      | _ => none
    else if s = "seal.k".toList then
      match values? 4 args with
      | some [kc, km, pt, ad] => some (.sealK kc km pt ad)
      | _ => none
    else if s = "open.k".toList then
      match values? 4 args with
      | some [kc, km, input, ad] => some (.openK kc km input ad)
      | _ => none
    else if s = "s2v.k".toList then
      match values? 3 args with
      | some [km, pt, ad] => some (.s2vK km pt ad)
      | _ => none
    else if s = "ctr.k".toList then
      match values? 3 args with
      | some [kc, iv, n] => some (.ctrK kc iv n)
      | _ => none
    else none
  | _ => none

/-- The lines of a line's tokens: none for an empty or comment line, else one, with its channel (R85). -/
def asmLine? : List Token → Option (List AsmLine)
  | [] => some []
  | .at :: .word c :: .colon :: rest =>
    (numberOf? 10 decDigit? c).bind fun c => (asmOp? rest).map fun op => [⟨c, op⟩]
  | ts => (asmOp? ts).map fun op => [⟨0, op⟩]

/-- The lines of a text, split at its line breaks. -/
def splitLines : List Char → List (List Char)
  | [] => [[]]
  | c :: cs =>
    if c.toNat = 10 then [] :: splitLines cs
    else
      match splitLines cs with
      | [] => [[c]]
      | l :: ls => (c :: l) :: ls

/-- The lines a program's text asks for; none where a line is not of R85's form. -/
def parseLines : List (List Char) → Option (List AsmLine)
  | [] => some []
  | l :: ls =>
    match (lex (.plain []) l).bind asmLine? with
    | none => none
    | some here => (parseLines ls).map (here ++ ·)

/-- A host program's text as host actions (R85, R86). -/
def assemble (text : String) : Option (List Action) := (parseLines (splitLines text.toList)).bind actionsOf

end Sys2Proof.Machine
end

