-- ==== Sys2Proof/Machine/Trace.lean ====
section
/-! DEFINITION. The access traces of the two constant-time sites, `dbl` and the compare (spec/41_bitprims.md rules R143, R148;
spec/70_reset_and_hazards.md rule R275): the steps of R136, R141 and R146, each recording the byte positions it reads and
writes as it runs. -/

namespace Sys2Proof.Machine

/-- The buffers the two sites touch: the input block and the shifted block of `dbl`, the two operands and the accumulator of
the compare. -/
inductive Buffer where
  | blk
  | shifted
  | left
  | right
  | acc
  deriving DecidableEq, Repr

/-- One access to a byte of a buffer. -/
inductive Access where
  | read (b : Buffer) (i : Nat)
  | write (b : Buffer) (i : Nat)
  deriving DecidableEq, Repr

/-- The shift loop of R136 for `i` in 0 to 14. -/
def shiftLoopTraced (blk : Bytes) : Bytes × List Access :=
  (List.range 15).foldl
    (fun r i => (r.1 ++ [(blk.getD i 0 <<< 1) ||| (blk.getD (i + 1) 0 >>> 7)],
      r.2 ++ [.read .blk i, .read .blk (i + 1), .write .shifted i]))
    ([], [])

/-- `dbl` with its trace (R136, then the mask step of R141): the carry is read first, `0x87 & m` is always XORed. -/
def dblTraced (blk : Bytes) : Bytes × List Access :=
  let carry : Bit := (blk.getD 0 0).extractLsb' 7 1
  let r := shiftLoopTraced blk
  let s := r.1 ++ [blk.getD 15 0 <<< 1]
  (s.set 15 (s.getD 15 0 ^^^ (0x87 &&& carryMask carry)),
    [.read .blk 0] ++ r.2 ++ [.read .blk 15, .write .shifted 15, .read .shifted 15, .write .shifted 15])

/-- The compare with its trace (R146): all 16 iterations, the test after the loop. -/
def ctAccTraced (u v : Bytes) : Byte × List Access :=
  (List.range 16).foldl
    (fun r i => (r.1 ||| (u.getD i 0 ^^^ v.getD i 0),
      r.2 ++ [.read .left i, .read .right i, .read .acc 0, .write .acc 0]))
    (0, [])

end Sys2Proof.Machine
end

