-- ==== Sys2Proof/Safety.lean ====
section
/-! DEFINITION. The terms claims are stated in: a channel ready for a command, what a port holds, and the invariant of the
machine. -/

namespace Sys2Proof.Machine

/-- The current channel is `ch`, has no fault, and the block is configured: a command issued now passes P1 of R225. -/
def Ready (s : State) (ch : Channel) : Prop :=
  s.channel? s.cur = some ch ∧ ch.fault = none ∧ s.cfgOk = true

/-- The channel a host action names (R47). -/
def Action.chan : Action → Nat
  | .write c _ _ | .clear c _ | .issue c _ | .read c _ | .cpy c _ | .cpyad c _ => c

/-- What an operand port holds, as a host value; none where it is unset (R31, R45). -/
def Channel.portValue (ch : Channel) : Port → Option PortValue
  | .ctrkey => ch.ctrkey.map .bytes
  | .mackey => ch.mackey.map .bytes
  | .a => ch.a.map .bytes
  | .b => ch.b.map .bytes
  | .ad => ch.ad.map .list
  | .nb => ch.nb.map fun n => .int n.toNat

/-- The ports of two channels hold the same (R31). -/
def Channel.samePorts (ch ch' : Channel) : Prop := ∀ p, ch'.portValue p = ch.portValue p

/-- A recorded fault names the channel it stands in, and a port or result register that is unset there (R229, R231). -/
def Fault.describes (c : Nat) (ch : Channel) : Fault → Prop
  | .unsetOperand c' p => c' = c ∧ ch.isSet p = false
  | .unsetResult c' r => c' = c ∧ ch.readResult? r = none

/-- What every reachable channel satisfies. -/
structure Channel.Inv (cfgOk : Bool) (c : Nat) (ch : Channel) : Prop where
  /-- Port values lie in their domains (R31). -/
  ctrkey_len : ∀ v, ch.ctrkey = some v → v.length ≤ Config.maxLen
  mackey_len : ∀ v, ch.mackey = some v → v.length ≤ Config.maxLen
  a_len : ∀ v, ch.a = some v → v.length ≤ Config.maxLen
  b_len : ∀ v, ch.b = some v → v.length ≤ Config.maxLen
  ad_len : ∀ l, ch.ad = some l → ∀ v ∈ l, v.length ≤ Config.maxLen
  /-- `R_OUT` lies in its domain (R33). -/
  out_len : ∀ v, ch.out = some v → v.length ≤ Config.maxLen
  /-- Every command writes both `R_OUT` and `R_STATUS` (R35). -/
  out_status : ch.out.isSome = ch.status.isSome
  /-- No partial result stands in `R_OUT` after a failure (R35). -/
  fail_empty : ∀ st, ch.status = some st → st ≠ .ok → ch.out = some []
  /-- `CONFIGURATION` is the status of every command on an unconfigured block, and of none on a configured one (R224). -/
  configuration : ∀ st, ch.status = some st → (st = .configuration ↔ cfgOk = false)
  /-- The cipher instance holds accepted keys only (R102). -/
  ci_accepted : ∀ k, ch.ci = .keyed k → Config.keyOk k.length = true
  /-- A recorded fault is about this channel as it stands (R229, R231). -/
  fault_describes : ∀ f, ch.fault = some f → f.describes c ch

/-- What every reachable state satisfies: `N_CH` channels (R30), `CFG_OK` as reset set it (R41), every channel as above. -/
structure State.Inv (s : State) : Prop where
  count : s.channels.length = Config.nCh
  cfg : s.cfgOk = decide (Config.bcBlockSize = 16)
  chans : ∀ c ch, s.channel? c = some ch → ch.Inv s.cfgOk c

end Sys2Proof.Machine
end

