-- ==== Sys2Proof/WellFormed.lean ====
section
/-! DEFINITION. What is well formed: a command (it has no operand, R73), a command word (R70, R72), and a host action
(R39, R47). -/

namespace Sys2Proof

/-- Every command is well formed: none carries an operand field (R73). -/
def Instr.wf : Instr → Bool
  | .xor | .xorend | .pad | .shl1 | .dbl | .cteq | .s2v | .ctr | .seal_ | .open_ => true

/-- The assigned opcodes (R75). -/
def assignedOpcodes : List (BitVec 8) := [0x01, 0x02, 0x03, 0x04, 0x05, 0x06, 0x10, 0x20, 0x30, 0x31]

/-- A word is legal when `RES` is 0 and `OPC` is assigned (R72). -/
def Word.wf (w : Word) : Bool := w >>> 8 == 0 && assignedOpcodes.contains (w.setWidth 8)

namespace Machine

/-- A value is in the domain of the register with that id (R31, R34): ports 0 to 3 take a byte string, port 4 a list of
byte strings, port 5 and `CMD` a 32-bit unsigned integer. -/
def PortValue.wf (maxLen : Nat) : (id : Nat) → PortValue → Bool
  | 0, .bytes v | 1, .bytes v | 2, .bytes v | 3, .bytes v => decide (v.length ≤ maxLen)
  | 4, .list v => v.all fun x => decide (x.length ≤ maxLen)
  | 5, .int n | 12, .int n => decide (n < 2 ^ 32)
  | _, _ => false

/-- The form of a host action that does not depend on the state (R39, R47): the channel exists, the id is one the action
may name, and a written value is in its domain. -/
def Action.wf (nCh maxLen : Nat) : Action → Bool
  | .write c id v => decide (c < nCh) && v.wf maxLen id
  | .clear c id => decide (c < nCh) && decide (id ≤ 5)
  | .issue c _ => decide (c < nCh)
  | .read c id => decide (c < nCh) && (decide (8 ≤ id) && decide (id ≤ 10))
  | .cpy c id => decide (c < nCh) && decide (id ≤ 3)
  | .cpyad c _ => decide (c < nCh)

end Machine
end Sys2Proof
end

