-- ==== Sys2Proof/Certificates/Slice0/Obligations.lean ====
section
/-! DEFINITION. The statements for the provers, family by family in the order of spec/. -/

open Sys2Proof Sys2Proof.Machine Host

/-! ### Decoding (spec/30_encoding.md) -/

/-- R75: each word of the opcode map decodes to its command. -/
def Obligations.OpcodeMapWordsDecode : Prop :=
  decode 0x00000001 = .ok .xor ∧ decode 0x00000002 = .ok .xorend ∧ decode 0x00000003 = .ok .pad ∧
  decode 0x00000004 = .ok .shl1 ∧ decode 0x00000005 = .ok .dbl ∧ decode 0x00000006 = .ok .cteq ∧
  decode 0x00000010 = .ok .s2v ∧ decode 0x00000020 = .ok .ctr ∧ decode 0x00000030 = .ok .seal_ ∧
  decode 0x00000031 = .ok .open_

/-- R72: decoding gives a command exactly where bits 31:8 are 0 and bits 7:0 are that command's opcode in the table, and
decoding the word of a command gives the command back. -/
def Obligations.DecodeInvertsEncodeOnEveryWord : Prop :=
  (∀ i : Instr, decode (encode i) = .ok i) ∧
  (∀ (w : Word) (i : Instr), decode w = .ok i → w = encode i) ∧
  ∀ w : Word, (∃ i, decode w = .ok i) ↔
    w.toNat / 256 = 0 ∧ w.toNat % 256 ∈ [0x01, 0x02, 0x03, 0x04, 0x05, 0x06, 0x10, 0x20, 0x30, 0x31]

/-- A step whose host issues a word that decodes runs exactly that command, on that channel; the step itself takes the
action off the host's program and advances its index (R37). -/
def Obligations.StepRunsTheIssuedCommand : Prop :=
  ∀ (s : State) (c : Nat) (w : Word) (rest : List Action) (i : Instr),
    s.todo = .issue c w :: rest → decode w = .ok i →
    step s = exec i { s with cur := c, todo := rest, index := s.index + 1 }

/-- R76: on a configured block an illegal word, `0x00000000` and every word with a reserved bit set included, ends with
`ILLEGAL_COMMAND` and an empty `R_OUT`, and changes nothing else of the block, whether or not a port is set. -/
def Obligations.IllegalWordEndsWithIllegalCommand : Prop :=
  ∀ (s : State) (c : Nat) (w : Word) (rest : List Action) (ch : Channel),
    s.todo = .issue c w :: rest → (∀ i, encode i ≠ w) →
    s.channel? c = some ch → ch.fault = none → s.cfgOk = true →
    ∃ t, step s = .next t ∧ t.cfgOk = s.cfgOk ∧
      t.channels = s.channels.set c { ch with out := some [], status := some .illegalCommand }

/-! ### Statuses and the prologue (spec/60_exceptions.md) -/

/-- R224: on an unconfigured block every word, legal or illegal, ends with `CONFIGURATION` and an empty `R_OUT` and reads no
port, set or unset; and no step ends the condition. -/
def Obligations.UnconfiguredBlockAnswersConfiguration : Prop :=
  (∀ (s : State) (c : Nat) (w : Word) (rest : List Action) (ch : Channel),
    s.todo = .issue c w :: rest → s.channel? c = some ch → ch.fault = none → s.cfgOk = false →
    ∃ t, step s = .next t ∧ t.cfgOk = false ∧
      t.channels = s.channels.set c { ch with out := some [], status := some .configuration }) ∧
  ∀ s t : State, s.cfgOk = false → step s = .next t → t.cfgOk = false

/-- R225 step P3, with R74's table: a command records `UnsetOperand` for the first unset port among those it reads, and
writes no register. -/
def Obligations.FirstUnsetOperandIsRecorded : Prop :=
  ∀ (i : Instr) (s : State) (ch : Channel) (p : Port), Ready s ch →
    (match i with
      | .xor | .xorend | .cteq => [Port.a, .b]
      | .pad | .shl1 | .dbl => [.a]
      | .s2v => [.mackey, .a, .ad]
      | .ctr => [.ctrkey, .a, .nb]
      | .seal_ | .open_ => [.ctrkey, .mackey, .a, .ad]).find? (fun q => (ch.portValue q).isNone) = some p →
    exec i s = .next (s.setChannel s.cur { ch with fault := some (.unsetOperand s.cur p) })

/-- R35: a command whose ports are set writes `R_STATUS` and `R_OUT`; on any failure `R_OUT` is empty; `R_CARRY` is written
only by a SHL1 that succeeds. -/
def Obligations.EveryCommandEndsWithItsResultsWritten : Prop :=
  ∀ (i : Instr) (s : State) (ch : Channel), Ready s ch →
    (∀ p ∈ portsRead i, ch.portValue p ≠ none) →
    ∃ (ch' : Channel) (st : Status) (v : Bytes),
      exec i s = .next (s.setChannel s.cur ch') ∧ ch'.status = some st ∧ ch'.out = some v ∧
      (st ≠ .ok → v = []) ∧
      ((i = .shl1 ∧ st = .ok → ch'.carry ≠ none) ∧ (¬ (i = .shl1 ∧ st = .ok) → ch'.carry = ch.carry)) ∧
      ch.samePorts ch' ∧ ch'.fault = none

/-- R223 with R48: what a command leaves alone. Only the current channel is replaced; its ports are as before; `R_CARRY`
changes only in SHL1, `CI` only in S2V, CTR, SEAL and OPEN. -/
def Obligations.CommandFrame : Prop :=
  ∀ (i : Instr) (s t : State), exec i s = .next t →
    ∃ ch ch', s.channel? s.cur = some ch ∧ t = { s with channels := s.channels.set s.cur ch' } ∧
      ch.samePorts ch' ∧
      (i ≠ .shl1 → ch'.carry = ch.carry) ∧
      (i = .xor ∨ i = .xorend ∨ i = .pad ∨ i = .shl1 ∨ i = .dbl ∨ i = .cteq → ch'.ci = ch.ci) ∧
      (ch'.fault ≠ none → ch'.out = ch.out ∧ ch'.status = ch.status ∧ ch'.carry = ch.carry ∧ ch'.ci = ch.ci)

/-- R227: the command after one that failed runs as if the failed one had not been issued: it ends with the same result,
status and carry, and with the same fault where its operands are unset. -/
def Obligations.FailureLeavesNoErrorState : Prop :=
  ∀ (i j : Instr) (s s₁ : State) (ch ch₁ : Channel), Ready s ch →
    exec i s = .next s₁ → s₁.channel? s.cur = some ch₁ → ch₁.fault = none → ch₁.status ≠ some .ok →
    ∃ chj chj₁, exec j s = .next (s.setChannel s.cur chj) ∧ exec j s₁ = .next (s₁.setChannel s.cur chj₁) ∧
      chj₁.fault = chj.fault ∧ chj₁.carry = chj.carry ∧ chj.samePorts chj₁ ∧
      (chj.fault = none → chj₁.out = chj.out ∧ chj₁.status = chj.status)

/-! ### The bit primitives (spec/41_bitprims.md) -/

/-- R121, R122: XOR, with its length check. -/
def Obligations.XorWritesTheBytewiseXor : Prop :=
  decode 0x00000001 = .ok .xor ∧
  ∀ (s : State) (ch : Channel) (a b : Bytes), Ready s ch → ch.a = some a → ch.b = some b →
    (a.length > b.length →
      exec .xor s = .next (s.setChannel s.cur { ch with out := some [], status := some .invalidInput })) ∧
    (a.length ≤ b.length → ∃ r : Bytes,
      exec .xor s = .next (s.setChannel s.cur { ch with out := some r, status := some .ok }) ∧
      r.length = a.length ∧ ∀ i, i < a.length → r.getD i 0 = a.getD i 0 ^^^ b.getD i 0)

/-- R126, R127: XOREND, with its length check. -/
def Obligations.XorendXorsTheLastBytes : Prop :=
  decode 0x00000002 = .ok .xorend ∧
  ∀ (s : State) (ch : Channel) (a b : Bytes), Ready s ch → ch.a = some a → ch.b = some b →
    (a.length < b.length →
      exec .xorend s = .next (s.setChannel s.cur { ch with out := some [], status := some .invalidInput })) ∧
    (a.length ≥ b.length → ∃ r : Bytes,
      exec .xorend s = .next (s.setChannel s.cur { ch with out := some r, status := some .ok }) ∧
      r.length = a.length ∧
      (∀ i, i < a.length - b.length → r.getD i 0 = a.getD i 0) ∧
      ∀ j, j < b.length →
        r.getD (a.length - b.length + j) 0 = a.getD (a.length - b.length + j) 0 ^^^ b.getD j 0)

/-- R131, R132: PAD, with its length check. -/
def Obligations.PadFillsOneBlock : Prop :=
  decode 0x00000003 = .ok .pad ∧
  ∀ (s : State) (ch : Channel) (a : Bytes), Ready s ch → ch.a = some a →
    (a.length ≥ 16 →
      exec .pad s = .next (s.setChannel s.cur { ch with out := some [], status := some .invalidInput })) ∧
    (a.length < 16 → ∃ r : Bytes,
      exec .pad s = .next (s.setChannel s.cur { ch with out := some r, status := some .ok }) ∧
      r.length = 16 ∧
      (∀ i, i < a.length → r.getD i 0 = a.getD i 0) ∧
      r.getD a.length 0 = 0x80 ∧
      ∀ i, a.length < i → i < 16 → r.getD i 0xFF = 0)

/-- R136, R137: SHL1, with its length check and its carry, byte by byte and as a 128-bit number; no other command writes
`R_CARRY`. -/
def Obligations.Shl1ShiftsAndWritesTheCarry : Prop :=
  decode 0x00000004 = .ok .shl1 ∧
  ∀ (s : State) (ch : Channel) (a : Bytes), Ready s ch → ch.a = some a →
    (a.length ≠ 16 →
      exec .shl1 s = .next (s.setChannel s.cur { ch with out := some [], status := some .invalidInput })) ∧
    (a.length = 16 → ∃ (r : Bytes) (c : Bit),
      exec .shl1 s = .next (s.setChannel s.cur { ch with out := some r, carry := some c, status := some .ok }) ∧
      r.length = 16 ∧ c.toNat = ((a.getD 0 0).getLsbD 7).toNat ∧
      (∀ i, i < 15 → r.getD i 0 = ((a.getD i 0 <<< 1) ||| (a.getD (i + 1) 0 >>> 7))) ∧
      r.getD 15 0 = a.getD 15 0 <<< 1 ∧
      beNat r = 2 * beNat a % 2 ^ 128 ∧ c.toNat = beNat a / 2 ^ 127) ∧
    ∀ (i : Instr) (t : State), i ≠ .shl1 → exec i s = .next t → ∃ ch', t.channel? s.cur = some ch' ∧ ch'.carry = ch.carry

/-- R141, R142: DBL, with its length check; `R_CARRY` is not written. -/
def Obligations.DblShiftsAndReduces : Prop :=
  decode 0x00000005 = .ok .dbl ∧
  ∀ (s : State) (ch : Channel) (a : Bytes), Ready s ch → ch.a = some a →
    (a.length ≠ 16 →
      exec .dbl s = .next (s.setChannel s.cur { ch with out := some [], status := some .invalidInput })) ∧
    (a.length = 16 → ∃ r : Bytes,
      exec .dbl s = .next (s.setChannel s.cur { ch with out := some r, status := some .ok }) ∧
      r.length = 16 ∧
      (∀ i, i < 15 → r.getD i 0 = ((a.getD i 0 <<< 1) ||| (a.getD (i + 1) 0 >>> 7))) ∧
      r.getD 15 0 = ((a.getD 15 0 <<< 1) ^^^ (0x87#8 &&& (0#8 - ((a.getD 0 0).extractLsb' 7 1).setWidth 8))))

/-- The polynomial over GF(2) a 128-bit number stands for: bit `k` is the coefficient of `x^k` (R144). -/
noncomputable def Sys2Proof.fieldPoly (n : Nat) : Polynomial (ZMod 2) :=
  ∑ k ∈ Finset.range 128, if n.testBit k then Polynomial.X ^ k else 0

/-- R144: `dbl(v)` is `x · v` modulo `x^128 + x^7 + x^2 + x + 1`, and `0x87` is what `x^128` reduces to. -/
def Obligations.DblIsMultiplicationByXInTheField : Prop :=
  (∀ v : Bytes, v.length = 16 →
    fieldPoly (beNat (dblBlock v)) =
      (Polynomial.X * fieldPoly (beNat v)) %ₘ
        (Polynomial.X ^ 128 + Polynomial.X ^ 7 + Polynomial.X ^ 2 + Polynomial.X + 1)) ∧
  fieldPoly 0x87 = Polynomial.X ^ 7 + Polynomial.X ^ 2 + Polynomial.X + 1 ∧
  Polynomial.X ^ 128 %ₘ (Polynomial.X ^ 128 + Polynomial.X ^ 7 + Polynomial.X ^ 2 + Polynomial.X + 1) = fieldPoly 0x87

/-- R146, R147: CTEQ writes the accumulator, each of whose bits is set where some byte differs in that bit, and which is 0
exactly where the values are equal; status OK either way. -/
def Obligations.CteqWritesTheAccumulator : Prop :=
  decode 0x00000006 = .ok .cteq ∧
  ∀ (s : State) (ch : Channel) (u v : Bytes), Ready s ch → ch.a = some u → ch.b = some v →
    (u.length ≠ 16 ∨ v.length ≠ 16 →
      exec .cteq s = .next (s.setChannel s.cur { ch with out := some [], status := some .invalidInput })) ∧
    (u.length = 16 → v.length = 16 → ∃ acc : Byte,
      exec .cteq s = .next (s.setChannel s.cur { ch with out := some [acc], status := some .ok }) ∧
      (∀ k, k < 8 → (acc.getLsbD k = true ↔ ∃ i, i < 16 ∧ (u.getD i 0 ^^^ v.getD i 0).getLsbD k = true)) ∧
      (acc = 0 ↔ u = v))

/-- R143: the access trace of `dbl` is the same for every block: the read of the high bit's byte, the 15 iterations of R136's
loop, the last byte, and the mask step of R141, always. The traced steps compute `dbl`. -/
def Obligations.DblTraceDoesNotDependOnTheData : Prop :=
  ∀ u v : Bytes, u.length = 16 → v.length = 16 →
    (dblTraced u).2 = (dblTraced v).2 ∧
    (dblTraced u).2 =
      [Access.read .blk 0] ++
      ((List.range 15).flatMap fun i => [Access.read .blk i, Access.read .blk (i + 1), Access.write .shifted i]) ++
      [Access.read .blk 15, Access.write .shifted 15] ++
      [Access.read .shifted 15, Access.write .shifted 15] ∧
    (dblTraced u).1 = dblBlock u

/-- R148: the access trace of the compare is the same for any operands, reads all 16 bytes of both, and the traced loop
computes the accumulator. -/
def Obligations.CompareTraceDoesNotDependOnTheData : Prop :=
  ∀ u v u' v' : Bytes, u.length = 16 → v.length = 16 →
    (ctAccTraced u v).2 = (ctAccTraced u' v').2 ∧
    (∀ i, i < 16 → Access.read .left i ∈ (ctAccTraced u v).2 ∧ Access.read .right i ∈ (ctAccTraced u v).2) ∧
    (ctAccTraced u v).1 = ctAcc u v

/-! ### CMAC (spec/40_adapter.md) -/

/-- R104: the CMAC the block is attached to, chain value by chain value. The construction is the model's choice among what
R104 allows, PRESUMED in log entry 6. -/
def Obligations.AttachedCmacIsTheChainOfR104 : Prop :=
  ∀ k m : Bytes, ∃ (x : Nat → Bytes) (n : Nat) (l last : Bytes),
    l = encBlock Config.bc k (List.replicate 16 0) ∧
    n = (if m.length = 0 then 1 else (m.length + 15) / 16) ∧
    last = (if m.length ≠ 0 ∧ m.length % 16 = 0
      then xorBytes (slice m (16 * (n - 1)) (16 * n)) (dblBlock l)
      else xorBytes (padBlock (m.drop (16 * (n - 1)))) (dblBlock (dblBlock l))) ∧
    x 0 = List.replicate 16 0 ∧
    (∀ i, i + 1 < n → x (i + 1) = encBlock Config.bc k (xorBytes (x i) (slice m (16 * i) (16 * i + 16)))) ∧
    (attached.cmac k m).toList = encBlock Config.bc k (xorBytes (x (n - 1)) last)

/-! ### S2V (spec/42_s2v.md) -/

/-- R150, R151, R153, R155: S2V's checks in order, then the chain and the tag, value by value. After a rejected key the
cipher instance is left open here (log entry 7). -/
def Obligations.S2vComputesTheSyntheticIv : Prop :=
  decode 0x00000010 = .ok .s2v ∧
  ∀ (s : State) (ch : Channel) (km pt : Bytes) (ad : List Bytes), Ready s ch →
    ch.mackey = some km → ch.a = some pt → ch.ad = some ad →
    (ad.length > 126 →
      exec .s2v s = .next (s.setChannel s.cur { ch with out := some [], status := some .invalidInput })) ∧
    (ad.length ≤ 126 → Config.keyOk km.length = false → ∃ ci,
      exec .s2v s = .next (s.setChannel s.cur { ch with out := some [], status := some .invalidKey, ci := ci })) ∧
    (ad.length ≤ 126 → Config.keyOk km.length = true → ∃ (d : Nat → Bytes) (t v : Bytes),
      exec .s2v s = .next (s.setChannel s.cur { ch with out := some v, status := some .ok, ci := .keyed km }) ∧
      d 0 = macUnder attached km (List.replicate 16 0) ∧
      (∀ i, i < ad.length → d (i + 1) = xorBytes (dblBlock (d i)) (macUnder attached km (ad.getD i []))) ∧
      t = (if pt.length ≥ 16 then xorEnd pt (d ad.length) else xorBytes (dblBlock (d ad.length)) (padBlock pt)) ∧
      v = macUnder attached km t ∧ v.length = 16)

/-- R156: S2V's corner cases, for every CMAC under a key. The list `s2vMacInputs` has `n + 2` strings (a count of that list, log
entry 19), the last of which gives the tag, and a CMAC that agrees on them gives the same tag, whatever it does elsewhere. -/
def Obligations.S2vCornerCases : Prop :=
  ∀ (mac : Bytes → Bytes), (∀ m, (mac m).length = 16) →
    s2vTag mac [] [] = mac (xorBytes (dblBlock (mac (List.replicate 16 0))) (0x80 :: List.replicate 15 0)) ∧
    (∀ (pt : Bytes) (ad : List Bytes),
      (s2vMacInputs mac pt ad).length = ad.length + 2 ∧
      s2vTag mac pt ad = mac ((s2vMacInputs mac pt ad).getLast?.getD []) ∧
      (∀ mac' : Bytes → Bytes, (∀ x ∈ s2vMacInputs mac pt ad, mac' x = mac x) → s2vTag mac' pt ad = s2vTag mac pt ad) ∧
      s2vChain mac [] = mac (List.replicate 16 0) ∧
      (pt.length = 15 → s2vTag mac pt ad = mac (xorBytes (dblBlock (s2vChain mac ad)) (pt ++ [0x80]))) ∧
      (pt.length = 16 → s2vTag mac pt ad = mac (xorBytes pt (s2vChain mac ad))) ∧
      (pt.length > 16 → s2vTag mac pt ad =
        mac (pt.take (pt.length - 16) ++ xorBytes (pt.drop (pt.length - 16)) (s2vChain mac ad))))

/-! ### CTR (spec/43_ctr.md) -/

/-- R170, R173, R175: CTR's checks in order, then the keystream, block by block. `c0` is the last eight bytes of the IV
read big-endian with bits 63 and 31 cleared (R171). After a rejected key the cipher instance is left open here (log entry
7). -/
def Obligations.CtrWritesTheKeystream : Prop :=
  decode 0x00000020 = .ok .ctr ∧
  ∀ (s : State) (ch : Channel) (kc iv : Bytes) (nb : BitVec 32), Ready s ch →
    ch.ctrkey = some kc → ch.a = some iv → ch.nb = some nb →
    (iv.length ≠ 16 ∨ nb.toNat * 16 > Config.maxLen →
      exec .ctr s = .next (s.setChannel s.cur { ch with out := some [], status := some .invalidInput })) ∧
    (iv.length = 16 → nb.toNat * 16 ≤ Config.maxLen → Config.keyOk kc.length = false → ∃ ci,
      exec .ctr s = .next (s.setChannel s.cur { ch with out := some [], status := some .invalidKey, ci := ci })) ∧
    (iv.length = 16 → nb.toNat * 16 ≤ Config.maxLen → Config.keyOk kc.length = true → ∃ (q : Nat → Bytes) (ks : Bytes),
      exec .ctr s = .next (s.setChannel s.cur { ch with out := some ks, status := some .ok, ci := .keyed kc }) ∧
      ks.length = 16 * nb.toNat ∧
      ∀ i, i < nb.toNat →
        slice ks (16 * i) (16 * i + 16) = encUnder attached kc (q i) ∧
        (q i).length = 16 ∧ (q i).take 8 = iv.take 8 ∧
        beNat ((q i).drop 8) = ((beNat (iv.drop 8) &&& 0x7FFFFFFF7FFFFFFF) + i) % 2 ^ 64)

/-- R172: the counter never wraps at 64 bits, and under the default length bound its low 32 bits never carry. -/
def Obligations.CounterNeverWraps : Prop :=
  ∀ iv : Bytes, iv.length = 16 →
    counterStart iv ≤ 0x7FFFFFFF7FFFFFFF ∧
    (∀ nb i : Nat, nb < 2 ^ 32 → i < nb → counterStart iv + i ≤ 0x7FFFFFFF7FFFFFFF + 2 ^ 32 - 2 ∧
      counterStart iv + i < 2 ^ 64 ∧
      (nb * 16 ≤ Config.maxLenDefault → nb ≤ 2 ^ 27 - 1 ∧ counterStart iv % 2 ^ 32 + i < 2 ^ 32))

/-! ### The envelope (spec/44_envelope.md) -/

/-- R190, R191: SEAL's checks in order, then the synthetic IV followed by the plaintext XORed with the keystream truncated
to its length. After a rejected key the cipher instance is left open here (log entry 7). -/
def Obligations.SealEmitsIvThenCiphertext : Prop :=
  decode 0x00000030 = .ok .seal_ ∧
  ∀ (s : State) (ch : Channel) (kc km pt : Bytes) (ad : List Bytes), Ready s ch →
    ch.ctrkey = some kc → ch.mackey = some km → ch.a = some pt → ch.ad = some ad →
    (pt.length + 16 > Config.maxLen ∨ ad.length > 126 →
      exec .seal_ s = .next (s.setChannel s.cur { ch with out := some [], status := some .invalidInput })) ∧
    (pt.length + 16 ≤ Config.maxLen → ad.length ≤ 126 →
      Config.keyOk km.length = false ∨ Config.keyOk kc.length = false → ∃ ci,
      exec .seal_ s = .next (s.setChannel s.cur { ch with out := some [], status := some .invalidKey, ci := ci })) ∧
    (pt.length + 16 ≤ Config.maxLen → ad.length ≤ 126 → Config.keyOk km.length = true →
      Config.keyOk kc.length = true → ∃ iv ks : Bytes,
      exec .seal_ s = .next (s.setChannel s.cur
        { ch with out := some (iv ++ xorBytes pt (ks.take pt.length)), status := some .ok, ci := .keyed kc }) ∧
      iv = s2vTag (macUnder attached km) pt ad ∧
      ks = ctrKeystream (encUnder attached kc) iv ((pt.length + 15) / 16) ∧
      (iv ++ xorBytes pt (ks.take pt.length)).length = pt.length + 16)

/-- R200: OPEN's checks in order, then the plaintext, released only where the recomputed tag equals the given one. After a
rejected key the cipher instance is left open here (log entry 7). -/
def Obligations.OpenReleasesThePlaintextOnlyOnAMatch : Prop :=
  decode 0x00000031 = .ok .open_ ∧
  ∀ (s : State) (ch : Channel) (kc km input : Bytes) (ad : List Bytes), Ready s ch →
    ch.ctrkey = some kc → ch.mackey = some km → ch.a = some input → ch.ad = some ad →
    (input.length < 16 →
      exec .open_ s = .next (s.setChannel s.cur { ch with out := some [], status := some .invalidLength })) ∧
    (input.length ≥ 16 → Config.keyOk kc.length = false → ∃ ci,
      exec .open_ s = .next (s.setChannel s.cur { ch with out := some [], status := some .invalidKey, ci := ci })) ∧
    (input.length ≥ 16 → Config.keyOk kc.length = true → ad.length > 126 →
      exec .open_ s =
        .next (s.setChannel s.cur { ch with out := some [], status := some .invalidInput, ci := .keyed kc })) ∧
    (input.length ≥ 16 → Config.keyOk kc.length = true → ad.length ≤ 126 → Config.keyOk km.length = false → ∃ ci,
      exec .open_ s = .next (s.setChannel s.cur { ch with out := some [], status := some .invalidKey, ci := ci })) ∧
    (input.length ≥ 16 → Config.keyOk kc.length = true → ad.length ≤ 126 → Config.keyOk km.length = true →
      ∃ iv ks pt : Bytes,
      iv = input.take 16 ∧
      ks = ctrKeystream (encUnder attached kc) iv ((input.length - 16 + 15) / 16) ∧
      pt = xorBytes (input.drop 16) (ks.take (input.length - 16)) ∧
      exec .open_ s = .next (s.setChannel s.cur
        (if iv = s2vTag (macUnder attached km) pt ad
          then { ch with out := some pt, status := some .ok, ci := .keyed km }
          else { ch with out := some [], status := some .unauthentic, ci := .keyed km })))

/-- The cipher instance after a rejected key: as the phase before it left it, keyed or not. Each command asks for the ports it
reads and no others, and OPEN with a rejected CTR key for no count (R226). The model's choice, log entry 7. -/
def Obligations.RejectedKeyLeavesTheCipherInstance : Prop :=
  ∀ (s : State) (ch : Channel), Ready s ch →
    (∀ kc iv nb, ch.ctrkey = some kc → ch.a = some iv → ch.nb = some nb → iv.length = 16 → nb.toNat * 16 ≤ Config.maxLen →
      Config.keyOk kc.length = false →
      exec .ctr s = .next (s.setChannel s.cur { ch with out := some [], status := some .invalidKey })) ∧
    (∀ km pt ad, ch.mackey = some km → ch.a = some pt → ch.ad = some ad → ad.length ≤ 126 →
      Config.keyOk km.length = false →
      exec .s2v s = .next (s.setChannel s.cur { ch with out := some [], status := some .invalidKey })) ∧
    ∀ kc km x ad, ch.ctrkey = some kc → ch.mackey = some km → ch.a = some x → ch.ad = some ad →
      (x.length + 16 ≤ Config.maxLen → ad.length ≤ 126 → Config.keyOk km.length = false →
        exec .seal_ s = .next (s.setChannel s.cur { ch with out := some [], status := some .invalidKey })) ∧
      (x.length + 16 ≤ Config.maxLen → ad.length ≤ 126 → Config.keyOk km.length = true → Config.keyOk kc.length = false →
        exec .seal_ s =
          .next (s.setChannel s.cur { ch with out := some [], status := some .invalidKey, ci := .keyed km })) ∧
      (x.length ≥ 16 → Config.keyOk kc.length = false →
        exec .open_ s = .next (s.setChannel s.cur { ch with out := some [], status := some .invalidKey })) ∧
      (x.length ≥ 16 → Config.keyOk kc.length = true → ad.length ≤ 126 → Config.keyOk km.length = false →
        exec .open_ s =
          .next (s.setChannel s.cur { ch with out := some [], status := some .invalidKey, ci := .keyed kc }))

/-- R204, on the machine: SEAL, a CPY of the result into `P_A`, and OPEN give the plaintext back with status OK. -/
def Obligations.SealThenOpenGivesThePlaintextBack : Prop :=
  ∀ (s : State) (ch : Channel) (kc km pt : Bytes) (ad : List Bytes), Ready s ch →
    ch.ctrkey = some kc → ch.mackey = some km → ch.a = some pt → ch.ad = some ad →
    Config.keyOk kc.length = true → Config.keyOk km.length = true → ad.length ≤ 126 → pt.length + 16 ≤ Config.maxLen →
    ∃ (s₁ s₂ s₃ : State) (ch₃ : Channel),
      exec .seal_ s = .next s₁ ∧ perform (.cpy s.cur 2) s₁ = .next s₂ ∧ exec .open_ s₂ = .next s₃ ∧
      s₃.channel? s.cur = some ch₃ ∧ ch₃.status = some .ok ∧ ch₃.out = some pt

/-- R200 with R190, for every cipher, CMAC, key set and bound: OPEN gives a plaintext exactly for the strings SEAL makes
of it under the same keys and associated data. -/
def Obligations.OpenAcceptsExactlyTheSealedStrings : Prop :=
  ∀ (P : Params) (kc km input pt : Bytes) (ad : List Bytes) (ci ci' : CipherInst), input.length ≤ P.maxLen →
    (openSteps P kc km input ad ci = .done pt (.keyed km) ↔ sealSteps P kc km pt ad ci' = .done input (.keyed kc))

/-- R202, third point, for every cipher and CMAC: flipping bit 7 of IV byte 8 or byte 12 of a sealed string makes OPEN report
`UNAUTHENTIC`. -/
def Obligations.FlippedMaskedIvBitIsUnauthentic : Prop :=
  ∀ (P : Params) (kc km pt v : Bytes) (ad : List Bytes) (ci ci₁ ci' : CipherInst) (j : Nat),
    sealSteps P kc km pt ad ci = .done v ci₁ → j = 8 ∨ j = 12 →
    openSteps P kc km (v.modify j (· ^^^ 0x80)) ad ci' = .raised .unauthentic (.keyed km)

/-! ### Byte order (spec/00_scope.md R19) -/

/-- R19: `to_be64` and `be64` are inverse to each other. -/
def Obligations.BigEndianEncodingRoundTrips : Prop :=
  (∀ v : Nat, v < 2 ^ 64 → (toBe64 v).length = 8 ∧ beNat (toBe64 v) = v) ∧
  ∀ s : Bytes, s.length = 8 → beNat s < 2 ^ 64 ∧ toBe64 (beNat s) = s

/-! ### Channels, ports and results (spec/10_state.md, spec/20_memory.md) -/

/-- R260, R261, R262: the state after reset. -/
def Obligations.ResetLeavesEverythingUnset : Prop :=
  State.reset.cfgOk = decide (Config.bcBlockSize = 16) ∧
  State.reset.channels.length = Config.nCh ∧ 1 ≤ Config.nCh ∧
  ∀ c ch, State.reset.channel? c = some ch →
    (∀ p, ch.portValue p = none) ∧ (∀ r, ch.readResult? r = none) ∧ ch.ci = .unkeyed ∧ ch.fault = none

/-- R67: the results of a command are a function of the ports it reads; nothing else in the state, the cipher instance and
the earlier results included, has a part in them. -/
def Obligations.ResultsDependOnOperandsAlone : Prop :=
  ∀ (i : Instr) (s s' : State) (ch ch' : Channel), Ready s ch → Ready s' ch' →
    (∀ p ∈ portsRead i, ch'.portValue p = ch.portValue p ∧ ch.portValue p ≠ none) →
    ∃ r r', exec i s = .next (s.setChannel s.cur r) ∧ exec i s' = .next (s'.setChannel s'.cur r') ∧
      r'.out = r.out ∧ r'.status = r.status ∧
      (i = .shl1 → r.status = some .ok → r'.carry = r.carry)

/-- R48: a host action on one channel neither reads nor writes another. -/
def Obligations.ActionsIgnoreOtherChannels : Prop :=
  ∀ (act : Action) (s t : State) (c : Nat) (x : Channel), act.chan ≠ c → perform act s = .next t →
    t.channel? c = s.channel? c ∧ perform act (s.setChannel c x) = .next (t.setChannel c x)

/-- R48: commands on different channels commute. -/
def Obligations.CommandsOnDifferentChannelsCommute : Prop :=
  ∀ (s : State) (c d : Nat) (w v : Word) (x y : Channel), c ≠ d →
    s.channel? c = some x → x.fault = none → s.channel? d = some y → y.fault = none →
    ∃ s₁ s₁₂ s₂ s₂₁, issue c w s = .next s₁ ∧ issue d v s₁ = .next s₁₂ ∧
      issue d v s = .next s₂ ∧ issue c w s₂ = .next s₂₁ ∧ s₁₂.channels = s₂₁.channels ∧ s₁₂.cfgOk = s₂₁.cfgOk

/-- R231: an action on a faulted channel has no move and ends in the recorded fault; no step changes a faulted channel. -/
def Obligations.FaultedChannelTakesNoFurtherStep : Prop :=
  ∀ (s : State) (c : Nat) (ch : Channel) (f : Fault), s.channel? c = some ch → ch.fault = some f →
    (∀ act : Action, act.chan = c → perform act s = .fault f) ∧
    (∀ t, step s = .next t → t.channel? c = some ch)

/-- R41: no step writes `CFG_OK`. -/
def Obligations.NoStepWritesCfgOk : Prop := ∀ s t : State, step s = .next t → t.cfgOk = s.cfgOk

/-- R38: a step that changes a channel's `R_CARRY` issued SHL1 on that channel (the issue being a write to `CMD`, R34). -/
def Obligations.OnlyShl1ChangesTheCarry : Prop :=
  ∀ (s t : State) (c : Nat) (ch ch' : Channel), step s = .next t →
    s.channel? c = some ch → t.channel? c = some ch' → ch'.carry ≠ ch.carry →
    ∃ rest, s.todo = .issue c 0x00000004 :: rest ∨ s.todo = .write c 12 (.int 4) :: rest

/-- R31, R44: a step that changes an operand port of a channel is the host's WRITE, CLEAR, CPY or CPYAD on that channel,
never a command. -/
def Obligations.OnlyTheHostWritesPorts : Prop :=
  ∀ (s t : State) (c : Nat) (ch ch' : Channel), step s = .next t →
    s.channel? c = some ch → t.channel? c = some ch' → ¬ ch.samePorts ch' →
    ∃ rest id, (∃ v, s.todo = .write c id v :: rest ∧ id ≤ 5) ∨ s.todo = .clear c id :: rest ∨
      s.todo = .cpy c id :: rest ∨ s.todo = .cpyad c id :: rest

/-! ### Host actions (spec/10_state.md R47) -/

/-- R47, WRITE and CLEAR: a value of the port's domain is held afterwards, and a cleared port is unset; every other port,
result and channel is as before. -/
def Obligations.WriteAndClearActOnOnePort : Prop :=
  ∀ (s : State) (c : Nat) (ch : Channel) (p : Port) (v : PortValue),
    s.channel? c = some ch → ch.fault = none → v.wf Config.maxLen p.id = true →
    ∃ cw cc, perform (.write c p.id v) s = .next (s.setChannel c cw) ∧ perform (.clear c p.id) s = .next (s.setChannel c cc) ∧
      cw.portValue p = some v ∧ cc.portValue p = none ∧
      (∀ q, q ≠ p → cw.portValue q = ch.portValue q ∧ cc.portValue q = ch.portValue q) ∧
      (∀ r, cw.readResult? r = ch.readResult? r ∧ cc.readResult? r = ch.readResult? r) ∧
      cw.ci = ch.ci ∧ cc.ci = ch.ci ∧ cw.fault = none ∧ cc.fault = none

/-- R45, R47, READ: a set result register's value goes to the host and the block is unchanged; an unset one is the fault
`UnsetResult`. -/
def Obligations.ReadReturnsTheResultOrFaults : Prop :=
  ∀ (s : State) (c : Nat) (ch : Channel) (r : ResultReg), s.channel? c = some ch → ch.fault = none →
    (∀ v, ch.readResult? r = some v → perform (.read c r.id) s = .next { s with reads := s.reads ++ [v] }) ∧
    (ch.readResult? r = none →
      perform (.read c r.id) s = .next (s.setChannel c { ch with fault := some (.unsetResult c r) }))

/-- R47, CPY and CPYAD: a set `R_OUT` is copied into the named port, or appended to `P_AD` at its end; nothing else changes. -/
def Obligations.CopiesMoveTheResultIntoAPort : Prop :=
  ∀ (s : State) (c : Nat) (ch : Channel) (o : Bytes), s.channel? c = some ch → ch.fault = none → ch.out = some o →
    perform (.cpy c 0) s = .next (s.setChannel c { ch with ctrkey := some o }) ∧
    perform (.cpy c 1) s = .next (s.setChannel c { ch with mackey := some o }) ∧
    perform (.cpy c 2) s = .next (s.setChannel c { ch with a := some o }) ∧
    perform (.cpy c 3) s = .next (s.setChannel c { ch with b := some o }) ∧
    (∀ l, ch.ad = some l →
      perform (.cpyad c l.length) s = .next (s.setChannel c { ch with ad := some (l ++ [o]) }))

/-- R39, R47: an action that is not of the form the spec gives the host (no such channel, an unassigned id, an access the
register does not allow, a value outside the domain) is never a move; every other action but a CPYAD is one, on a channel
without a fault (a CPY of an unset `R_OUT` records the fault, log entry 13). A CPYAD is a move exactly where `P_AD` is set and
its index is the length of `P_AD` (with an unset `R_OUT` it records the fault, log entry 13). -/
def Obligations.OnlyWellFormedActionsAreMoves : Prop :=
  ∀ (s : State) (act : Action),
    (act.wf s.channels.length Config.maxLen = false → ∀ t, perform act s ≠ .next t) ∧
    (act.wf s.channels.length Config.maxLen = true →
      (∀ ch, s.channel? act.chan = some ch → ch.fault = none) → (∀ c k, act ≠ .cpyad c k) →
      ∃ t, perform act s = .next t) ∧
    ∀ (c k : Nat) (ch : Channel), s.channel? c = some ch → ch.fault = none →
      ((∃ t, perform (.cpyad c k) s = .next t) ↔ ∃ l, ch.ad = some l ∧ k = l.length)

/-- R34: writing the word of a command to `CMD` issues it, and reading `CMD` is refused. -/
def Obligations.CmdIsWriteOnlyAndIssues : Prop :=
  ∀ (s : State) (c : Nat) (ch : Channel) (w : Word), s.channel? c = some ch → ch.fault = none →
    perform (.write c 12 (.int w.toNat)) s = perform (.issue c w) s ∧
    perform (.read c 12) s = .refused (.notReadable c 12)

/-- R37: a step takes one action off the host's program and advances its index by one, and nothing else changes them; with
no action left and no fault on any channel the state stays as it is (log entry 9). -/
def Obligations.StepAdvancesTheHostIndexByOne : Prop :=
  ∀ s : State,
    (s.todo = [] → (∀ c ch, s.channel? c = some ch → ch.fault = none) → step s = .next s) ∧
    ∀ (act : Action) (rest : List Action) (t : State), s.todo = act :: rest → step s = .next t →
      t.todo = rest ∧ t.index = s.index + 1

/-- R80: the codes of the seven statuses; a READ of `R_STATUS` gives the code. -/
def Obligations.StatusReadsAsItsCode : Prop :=
  (∀ st : Status, st.code.toNat ≤ 6) ∧ (∀ st st' : Status, st.code = st'.code → st = st') ∧
  Status.ok.code = 0x00 ∧ Status.configuration.code = 0x01 ∧ Status.invalidKey.code = 0x02 ∧
  Status.invalidInput.code = 0x03 ∧ Status.invalidLength.code = 0x04 ∧ Status.unauthentic.code = 0x05 ∧
  Status.illegalCommand.code = 0x06 ∧
  ∀ (s : State) (c : Nat) (ch : Channel) (st : Status), s.channel? c = some ch → ch.fault = none → ch.status = some st →
    perform (.read c 10) s = .next { s with reads := s.reads ++ [.code st.code] }

/-! ### Macros (spec/30_encoding.md R86) -/

/-- R86: the macro `seal.k` on a ready channel is SEAL of its four operands: after its five actions the channel holds the
operands in their ports and what SEAL makes of them. -/
def Obligations.SealMacroSealsItsOperands : Prop :=
  ∀ (s : State) (ch : Channel) (kc km pt : Bytes) (ad : List Bytes) (acts rest : List Action),
    s.channel? 0 = some ch → ch.fault = none → s.cfgOk = true →
    kc.length ≤ Config.maxLen → km.length ≤ Config.maxLen → pt.length ≤ Config.maxLen →
    (∀ x ∈ ad, x.length ≤ Config.maxLen) →
    actionsOf [⟨0, .sealK (.bytes kc) (.bytes km) (.bytes pt) (.list ad)⟩] = some acts → s.todo = acts ++ rest →
    core.run 5 s = .next
      { s with
        cur := 0, todo := rest, index := s.index + 5
        channels := s.channels.set 0
          ({ ch with ctrkey := some kc, mackey := some km, a := some pt, ad := some ad }.finish
            (sealSteps attached kc km pt ad ch.ci)) }

/-- R86: the macro `wipe` leaves both key ports unset and everything else of the channel as it was. -/
def Obligations.WipeMacroClearsTheKeyPorts : Prop :=
  ∀ (s : State) (c : Nat) (ch : Channel) (acts rest : List Action), s.channel? c = some ch → ch.fault = none →
    actionsOf [⟨c, .wipe⟩] = some acts → s.todo = acts ++ rest →
    core.run 2 s = .next
      { s with
        todo := rest, index := s.index + 2
        channels := s.channels.set c { ch with ctrkey := none, mackey := none } }

/-! ### The invariant -/

/-- The invariant holds after reset. -/
def Obligations.ResetSatisfiesTheInvariant : Prop := State.reset.Inv

/-- Every step keeps the invariant: `N_CH` channels, `CFG_OK` as reset set it, every port and `R_OUT` in its domain, `R_OUT`
and `R_STATUS` written together, no partial result after a failure, accepted keys only in the cipher, and every recorded
fault about the channel it stands in (R30, R31, R33, R35, R41, R102, R224, R231). -/
def Obligations.EveryStepKeepsTheInvariant : Prop := ∀ s t : State, s.Inv → step s = .next t → t.Inv

/-! ### Final states and copies of an unset result -/

/-- R229: a faulted state is never final. A state is final where the host has no action left and no channel has a fault; from a
state with a faulted channel no run reaches a final state, and with no action left the run ends in a recorded fault instead of
resting. The form of `final` is the model's, log entry 25. -/
def Obligations.FaultedStateIsNeverFinal : Prop :=
  (∀ s : State, s.final = true ↔ s.todo = [] ∧ ∀ c ch, s.channel? c = some ch → ch.fault = none) ∧
  ∀ (s : State) (c : Nat) (ch : Channel) (f : Fault), s.channel? c = some ch → ch.fault = some f →
    (s.todo = [] → ∃ g d ch', step s = .fault g ∧ s.channel? d = some ch' ∧ ch'.fault = some g) ∧
    ∀ (k : Nat) (t : State), core.run k s = .next t → t.channel? c = some ch ∧ t.final = false

/-- R45, R47: a copy of an unset `R_OUT` records `UnsetResult(c, R_OUT)` and copies nothing. That the two copies read `R_OUT` as a
READ does is the model's deduction, log entry 13. -/
def Obligations.CopyOfAnUnsetResultRecordsTheFault : Prop :=
  ∀ (s : State) (c : Nat) (ch : Channel), s.channel? c = some ch → ch.fault = none → ch.out = none →
    (∀ id, id ≤ 3 →
      perform (.cpy c id) s = .next (s.setChannel c { ch with fault := some (.unsetResult c .out) })) ∧
    (∀ l, ch.ad = some l →
      perform (.cpyad c l.length) s = .next (s.setChannel c { ch with fault := some (.unsetResult c .out) }))
end

