-- ==== Sys2Proof/Laws/Bits.lean ====
section
/-! SUPPORT. The lengths of what the shared functions give, and the big-endian reading. -/

namespace Sys2Proof.Machine

theorem xorBytes_length {a b : Bytes} (h : a.length ≤ b.length) : (xorBytes a b).length = a.length := by
  simp [xorBytes, h]

theorem xorEnd_length {a b : Bytes} (h : b.length ≤ a.length) : (xorEnd a b).length = a.length := by
  simp only [xorEnd, xorBytes, List.length_append, List.length_take, List.length_zipWith, List.length_drop]
  omega

theorem padBlock_length {s : Bytes} (h : s.length < 16) : (padBlock s).length = 16 := by
  simp only [padBlock, List.length_append, List.length_cons, List.length_replicate]
  omega

@[simp] theorem shiftBytes_length : ∀ s : Bytes, (shiftBytes s).length = s.length
  | [] => rfl
  | [_] => rfl
  | _ :: y :: rest => by simp [shiftBytes, shiftBytes_length (y :: rest)]

@[simp] theorem dblBlock_length (s : Bytes) : (dblBlock s).length = s.length := by simp [dblBlock, shiftLeft1]

@[simp] theorem zeroBlock_length : zeroBlock.length = 16 := rfl

@[simp] theorem toBe64_length (v : Nat) : (toBe64 v).length = 8 := rfl

@[simp] theorem encBlock_length (bc : Bytes → Block16 → Block16) (k x : Bytes) : (encBlock bc k x).length = 16 := by
  simp [encBlock]

@[simp] theorem encUnder_length (P : Params) (k x : Bytes) : (encUnder P k x).length = 16 := by simp [encUnder]

@[simp] theorem macUnder_length (P : Params) (k m : Bytes) : (macUnder P k m).length = 16 := by simp [macUnder]

@[simp] theorem s2vTag_length (P : Params) (k pt : Bytes) (ad : List Bytes) : (s2vTag (macUnder P k) pt ad).length = 16 := by
  simp [s2vTag]

theorem counterBlock_length {iv : Bytes} (h : iv.length = 16) (i : Nat) : (counterBlock iv i).length = 16 := by
  simp [counterBlock, h]

@[simp] theorem counterBlocks_length (iv : Bytes) (nb : Nat) : (counterBlocks iv nb).length = nb := by simp [counterBlocks]

/-- The keystream is whole blocks (R170, R174). -/
theorem ctrKeystream_length {enc : Bytes → Bytes} (h : ∀ x, (enc x).length = 16) (iv : Bytes) (nb : Nat) :
    (ctrKeystream enc iv nb).length = 16 * nb := by
  simp only [ctrKeystream, List.length_flatMap, h, List.map_const', counterBlocks_length, List.sum_replicate, smul_eq_mul]
  omega

/-- A block of keystream for every 16 bytes begun (R190 step 2). -/
theorem length_le_blocksFor (n : Nat) : n ≤ 16 * blocksFor n := by unfold blocksFor; omega

/-- XOR with a string at least as long, twice, gives back the string. -/
theorem xorBytes_cancel {a ks : Bytes} (h : a.length ≤ ks.length) : xorBytes (xorBytes a ks) ks = a := by
  induction a generalizing ks with
  | nil => simp [xorBytes]
  | cons x a ih =>
    cases ks with
    | nil => simp at h
    | cons k ks =>
      simp only [xorBytes, List.zipWith_cons_cons] at ih ⊢
      rw [ih (by simpa using h), BitVec.xor_assoc, BitVec.xor_self, BitVec.xor_zero]

/-- The big-endian value of a string with one byte more in front. -/
theorem beNat_cons (x : Byte) (s : Bytes) : beNat (x :: s) = x.toNat * 256 ^ s.length + beNat s := by
  have key : ∀ (s : Bytes) (n : Nat), s.foldl (fun acc b => 256 * acc + b.toNat) n = n * 256 ^ s.length + beNat s := by
    intro s
    induction s with
    | nil => intro n; simp [beNat]
    | cons y s ih =>
      intro n
      have hy : beNat (y :: s) = y.toNat * 256 ^ s.length + beNat s := by simpa [beNat] using ih y.toNat
      rw [List.foldl_cons, ih, hy, List.length_cons, pow_succ]
      ring
  simpa [beNat] using key s x.toNat

/-- The big-endian value of a string is below 256 to its length. -/
theorem beNat_lt : ∀ s : Bytes, beNat s < 256 ^ s.length
  | [] => by simp [beNat]
  | x :: s => by
    have hx : x.toNat ≤ 255 := by omega
    have := beNat_lt s
    rw [beNat_cons, List.length_cons, pow_succ]
    nlinarith

end Sys2Proof.Machine
end

