-- ==== Sys2Proof/Laws/State.lean ====
section
/-! SUPPORT. One lemma per field per update of the state and of a channel. -/

namespace Sys2Proof.Machine

@[simp] theorem Channel.raise_ctrkey (ch : Channel) (k : Status) : (ch.raise k).ctrkey = ch.ctrkey := rfl
@[simp] theorem Channel.raise_mackey (ch : Channel) (k : Status) : (ch.raise k).mackey = ch.mackey := rfl
@[simp] theorem Channel.raise_a (ch : Channel) (k : Status) : (ch.raise k).a = ch.a := rfl
@[simp] theorem Channel.raise_b (ch : Channel) (k : Status) : (ch.raise k).b = ch.b := rfl
@[simp] theorem Channel.raise_ad (ch : Channel) (k : Status) : (ch.raise k).ad = ch.ad := rfl
@[simp] theorem Channel.raise_nb (ch : Channel) (k : Status) : (ch.raise k).nb = ch.nb := rfl
@[simp] theorem Channel.raise_out (ch : Channel) (k : Status) : (ch.raise k).out = some [] := rfl
@[simp] theorem Channel.raise_carry (ch : Channel) (k : Status) : (ch.raise k).carry = ch.carry := rfl
@[simp] theorem Channel.raise_status (ch : Channel) (k : Status) : (ch.raise k).status = some k := rfl
@[simp] theorem Channel.raise_ci (ch : Channel) (k : Status) : (ch.raise k).ci = ch.ci := rfl
@[simp] theorem Channel.raise_fault (ch : Channel) (k : Status) : (ch.raise k).fault = ch.fault := rfl

@[simp] theorem Channel.succeed_ctrkey (ch : Channel) (v : Bytes) : (ch.succeed v).ctrkey = ch.ctrkey := rfl
@[simp] theorem Channel.succeed_mackey (ch : Channel) (v : Bytes) : (ch.succeed v).mackey = ch.mackey := rfl
@[simp] theorem Channel.succeed_a (ch : Channel) (v : Bytes) : (ch.succeed v).a = ch.a := rfl
@[simp] theorem Channel.succeed_b (ch : Channel) (v : Bytes) : (ch.succeed v).b = ch.b := rfl
@[simp] theorem Channel.succeed_ad (ch : Channel) (v : Bytes) : (ch.succeed v).ad = ch.ad := rfl
@[simp] theorem Channel.succeed_nb (ch : Channel) (v : Bytes) : (ch.succeed v).nb = ch.nb := rfl
@[simp] theorem Channel.succeed_out (ch : Channel) (v : Bytes) : (ch.succeed v).out = some v := rfl
@[simp] theorem Channel.succeed_carry (ch : Channel) (v : Bytes) : (ch.succeed v).carry = ch.carry := rfl
@[simp] theorem Channel.succeed_status (ch : Channel) (v : Bytes) : (ch.succeed v).status = some .ok := rfl
@[simp] theorem Channel.succeed_ci (ch : Channel) (v : Bytes) : (ch.succeed v).ci = ch.ci := rfl
@[simp] theorem Channel.succeed_fault (ch : Channel) (v : Bytes) : (ch.succeed v).fault = ch.fault := rfl

@[simp] theorem Channel.recordFault_ctrkey (ch : Channel) (f : Fault) : (ch.recordFault f).ctrkey = ch.ctrkey := rfl
@[simp] theorem Channel.recordFault_mackey (ch : Channel) (f : Fault) : (ch.recordFault f).mackey = ch.mackey := rfl
@[simp] theorem Channel.recordFault_a (ch : Channel) (f : Fault) : (ch.recordFault f).a = ch.a := rfl
@[simp] theorem Channel.recordFault_b (ch : Channel) (f : Fault) : (ch.recordFault f).b = ch.b := rfl
@[simp] theorem Channel.recordFault_ad (ch : Channel) (f : Fault) : (ch.recordFault f).ad = ch.ad := rfl
@[simp] theorem Channel.recordFault_nb (ch : Channel) (f : Fault) : (ch.recordFault f).nb = ch.nb := rfl
@[simp] theorem Channel.recordFault_out (ch : Channel) (f : Fault) : (ch.recordFault f).out = ch.out := rfl
@[simp] theorem Channel.recordFault_carry (ch : Channel) (f : Fault) : (ch.recordFault f).carry = ch.carry := rfl
@[simp] theorem Channel.recordFault_status (ch : Channel) (f : Fault) : (ch.recordFault f).status = ch.status := rfl
@[simp] theorem Channel.recordFault_ci (ch : Channel) (f : Fault) : (ch.recordFault f).ci = ch.ci := rfl
@[simp] theorem Channel.recordFault_fault (ch : Channel) (f : Fault) : (ch.recordFault f).fault = some f := rfl

@[simp] theorem Channel.finish_raised_ctrkey (ch : Channel) (k : Status) (x : CipherInst) : (ch.finish (.raised k x)).ctrkey = ch.ctrkey := rfl
@[simp] theorem Channel.finish_raised_mackey (ch : Channel) (k : Status) (x : CipherInst) : (ch.finish (.raised k x)).mackey = ch.mackey := rfl
@[simp] theorem Channel.finish_raised_a (ch : Channel) (k : Status) (x : CipherInst) : (ch.finish (.raised k x)).a = ch.a := rfl
@[simp] theorem Channel.finish_raised_b (ch : Channel) (k : Status) (x : CipherInst) : (ch.finish (.raised k x)).b = ch.b := rfl
@[simp] theorem Channel.finish_raised_ad (ch : Channel) (k : Status) (x : CipherInst) : (ch.finish (.raised k x)).ad = ch.ad := rfl
@[simp] theorem Channel.finish_raised_nb (ch : Channel) (k : Status) (x : CipherInst) : (ch.finish (.raised k x)).nb = ch.nb := rfl
@[simp] theorem Channel.finish_raised_out (ch : Channel) (k : Status) (x : CipherInst) : (ch.finish (.raised k x)).out = some [] := rfl
@[simp] theorem Channel.finish_raised_carry (ch : Channel) (k : Status) (x : CipherInst) : (ch.finish (.raised k x)).carry = ch.carry := rfl
@[simp] theorem Channel.finish_raised_status (ch : Channel) (k : Status) (x : CipherInst) : (ch.finish (.raised k x)).status = some k := rfl
@[simp] theorem Channel.finish_raised_ci (ch : Channel) (k : Status) (x : CipherInst) : (ch.finish (.raised k x)).ci = x := rfl
@[simp] theorem Channel.finish_raised_fault (ch : Channel) (k : Status) (x : CipherInst) : (ch.finish (.raised k x)).fault = ch.fault := rfl

@[simp] theorem Channel.finish_done_ctrkey (ch : Channel) (v : Bytes) (x : CipherInst) : (ch.finish (.done v x)).ctrkey = ch.ctrkey := rfl
@[simp] theorem Channel.finish_done_mackey (ch : Channel) (v : Bytes) (x : CipherInst) : (ch.finish (.done v x)).mackey = ch.mackey := rfl
@[simp] theorem Channel.finish_done_a (ch : Channel) (v : Bytes) (x : CipherInst) : (ch.finish (.done v x)).a = ch.a := rfl
@[simp] theorem Channel.finish_done_b (ch : Channel) (v : Bytes) (x : CipherInst) : (ch.finish (.done v x)).b = ch.b := rfl
@[simp] theorem Channel.finish_done_ad (ch : Channel) (v : Bytes) (x : CipherInst) : (ch.finish (.done v x)).ad = ch.ad := rfl
@[simp] theorem Channel.finish_done_nb (ch : Channel) (v : Bytes) (x : CipherInst) : (ch.finish (.done v x)).nb = ch.nb := rfl
@[simp] theorem Channel.finish_done_out (ch : Channel) (v : Bytes) (x : CipherInst) : (ch.finish (.done v x)).out = some v := rfl
@[simp] theorem Channel.finish_done_carry (ch : Channel) (v : Bytes) (x : CipherInst) : (ch.finish (.done v x)).carry = ch.carry := rfl
@[simp] theorem Channel.finish_done_status (ch : Channel) (v : Bytes) (x : CipherInst) : (ch.finish (.done v x)).status = some .ok := rfl
@[simp] theorem Channel.finish_done_ci (ch : Channel) (v : Bytes) (x : CipherInst) : (ch.finish (.done v x)).ci = x := rfl
@[simp] theorem Channel.finish_done_fault (ch : Channel) (v : Bytes) (x : CipherInst) : (ch.finish (.done v x)).fault = ch.fault := rfl

@[simp] theorem State.setChannel_cfgOk (s : State) (c : Nat) (ch : Channel) : (s.setChannel c ch).cfgOk = s.cfgOk := rfl
@[simp] theorem State.setChannel_cur (s : State) (c : Nat) (ch : Channel) : (s.setChannel c ch).cur = s.cur := rfl
@[simp] theorem State.setChannel_todo (s : State) (c : Nat) (ch : Channel) : (s.setChannel c ch).todo = s.todo := rfl
@[simp] theorem State.setChannel_index (s : State) (c : Nat) (ch : Channel) : (s.setChannel c ch).index = s.index := rfl
@[simp] theorem State.setChannel_reads (s : State) (c : Nat) (ch : Channel) : (s.setChannel c ch).reads = s.reads := rfl
@[simp] theorem State.setChannel_channels (s : State) (c : Nat) (ch : Channel) : (s.setChannel c ch).channels = s.channels.set c ch := rfl

/-- A command's end leaves the operand ports, the carry and the fault as they are (R223). -/
@[simp] theorem Channel.finish_ctrkey (ch : Channel) (e : Ending) : (ch.finish e).ctrkey = ch.ctrkey := by cases e <;> rfl
@[simp] theorem Channel.finish_mackey (ch : Channel) (e : Ending) : (ch.finish e).mackey = ch.mackey := by cases e <;> rfl
@[simp] theorem Channel.finish_a (ch : Channel) (e : Ending) : (ch.finish e).a = ch.a := by cases e <;> rfl
@[simp] theorem Channel.finish_b (ch : Channel) (e : Ending) : (ch.finish e).b = ch.b := by cases e <;> rfl
@[simp] theorem Channel.finish_ad (ch : Channel) (e : Ending) : (ch.finish e).ad = ch.ad := by cases e <;> rfl
@[simp] theorem Channel.finish_nb (ch : Channel) (e : Ending) : (ch.finish e).nb = ch.nb := by cases e <;> rfl
@[simp] theorem Channel.finish_carry (ch : Channel) (e : Ending) : (ch.finish e).carry = ch.carry := by cases e <;> rfl
@[simp] theorem Channel.finish_fault (ch : Channel) (e : Ending) : (ch.finish e).fault = ch.fault := by cases e <;> rfl

end Sys2Proof.Machine
end

