-- ==== Sys2Proof/Laws/Ops.lean ====
section
/-! SUPPORT. What each shared operation can do, said once. -/

namespace Sys2Proof.Machine

open Host (Outcome)

/-- A key length is accepted. -/
@[simp] theorem keyOk_someKeyLen : Config.keyOk Config.someKeyLen = true := by simp [Config.keyOk]

/-- A key length is rejected. -/
@[simp] theorem keyOk_rejectedKeyLen : Config.keyOk Config.rejectedKeyLen = false := by
  have h : Config.rejectedKeyLen ≠ Config.someKeyLen := by
    unfold Config.someKeyLen
    split <;> omega
  simp [Config.keyOk, h]

@[simp] theorem attached_keyOk : attached.keyOk = Config.keyOk := rfl

@[simp] theorem attached_maxLen : attached.maxLen = Config.maxLen := rfl

@[simp] theorem attached_bc : attached.bc = Config.bc := rfl

/-- Reading the channel just replaced. -/
theorem State.channel?_setChannel_self {s : State} {c : Nat} {ch₀ : Channel} (h : s.channel? c = some ch₀) (ch : Channel) :
    (s.setChannel c ch).channel? c = some ch := by
  obtain ⟨hc, -⟩ := List.getElem?_eq_some_iff.mp h
  simp [State.channel?, hc]

/-- Reading another channel than the one replaced. -/
theorem State.channel?_setChannel_ne (s : State) {c d : Nat} (h : c ≠ d) (ch : Channel) :
    (s.setChannel c ch).channel? d = s.channel? d := by
  simp [State.channel?, List.getElem?_set_ne h]

/-- Replacing a channel by itself changes nothing. -/
theorem State.setChannel_same {s : State} {c : Nat} {ch : Channel} (h : s.channel? c = some ch) : s.setChannel c ch = s := by
  obtain ⟨hc, h'⟩ := List.getElem?_eq_some_iff.mp h
  simp [State.setChannel, ← h']

/-- Replacements of different channels commute. -/
theorem State.setChannel_comm (s : State) {c d : Nat} (h : c ≠ d) (x y : Channel) :
    (s.setChannel c x).setChannel d y = (s.setChannel d y).setChannel c x := by
  simp [State.setChannel, List.set_comm _ _ h]

/-- No fault stands anywhere exactly where none stands in any channel. -/
theorem State.fault?_eq_none {s : State} : s.fault? = none ↔ ∀ c ch, s.channel? c = some ch → ch.fault = none := by
  simp only [State.fault?, List.findSome?_eq_none_iff, State.channel?]
  exact ⟨fun h c ch hc => h ch (List.mem_of_getElem? hc),
    fun h ch hm => by obtain ⟨c, hc⟩ := List.mem_iff_getElem?.mp hm; exact h c ch hc⟩

/-- A fault found stands in some channel. -/
theorem State.fault?_eq_some {s : State} {f : Fault} (h : s.fault? = some f) : ∃ c ch, s.channel? c = some ch ∧ ch.fault = some f := by
  obtain ⟨ch, hm, hf⟩ := List.exists_of_findSome?_eq_some h
  obtain ⟨c, hc⟩ := List.mem_iff_getElem?.mp hm
  exact ⟨c, ch, hc, hf⟩

/-- Acting on a channel without a fault. -/
theorem onChannel_of_ready {s : State} {c : Nat} {ch : Channel} {k : Channel → Outcome State Fault Refusal}
    (h : s.channel? c = some ch) (hf : ch.fault = none) : onChannel s c k = k ch := by
  simp [onChannel, h, hf]

/-- Acting on a faulted channel ends in the recorded fault (R231). -/
theorem onChannel_of_fault {s : State} {c : Nat} {ch : Channel} {f : Fault} {k : Channel → Outcome State Fault Refusal}
    (h : s.channel? c = some ch) (hf : ch.fault = some f) : onChannel s c k = .fault f := by
  simp [onChannel, h, hf]

/-- Everything acting on a channel can do where it answers a next state. -/
theorem onChannel_next {s t : State} {c : Nat} {k : Channel → Outcome State Fault Refusal}
    (h : onChannel s c k = .next t) : ∃ ch, s.channel? c = some ch ∧ ch.fault = none ∧ k ch = .next t := by
  unfold onChannel at h
  split at h
  · cases h
  · split at h
    · cases h
    · exact ⟨_, ‹_›, ‹_›, h⟩

/-- A command on a ready channel (R225). -/
theorem runCommand_of_ready {s : State} {ch : Channel} (h : Ready s ch) (f : Nat → Channel → Channel) :
    runCommand s f = .next (s.setChannel s.cur (f s.cur ch)) := by
  obtain ⟨h1, h2, h3⟩ := h
  simp [runCommand, onChannel_of_ready h1 h2, h3]

/-- A command on an unconfigured block (R224). -/
theorem runCommand_of_unconfigured {s : State} {ch : Channel} (h : s.channel? s.cur = some ch) (hf : ch.fault = none)
    (hc : s.cfgOk = false) (f : Nat → Channel → Channel) :
    runCommand s f = .next (s.setChannel s.cur (ch.raise .configuration)) := by
  simp [runCommand, onChannel_of_ready h hf, hc]

/-- Everything a command can do where it answers a next state: it replaces the current channel, which had no fault. -/
theorem runCommand_next {s t : State} {f : Nat → Channel → Channel} (h : runCommand s f = .next t) :
    ∃ ch, s.channel? s.cur = some ch ∧ ch.fault = none ∧
      t = s.setChannel s.cur (if s.cfgOk then f s.cur ch else ch.raise .configuration) := by
  obtain ⟨ch, h1, h2, h3⟩ := onChannel_next h
  cases h3
  exact ⟨ch, h1, h2, rfl⟩

@[simp] theorem operand_some {α : Type} (c : Nat) (ch : Channel) (p : Port) (x : α) (k : α → Channel) :
    operand c ch p (some x) k = k x := rfl

@[simp] theorem operand_none {α : Type} (c : Nat) (ch : Channel) (p : Port) (k : α → Channel) :
    operand c ch p none k = ch.recordFault (.unsetOperand c p) := rfl

@[simp] theorem Ending.andThen_done (v : Bytes) (ci : CipherInst) (k : Bytes → CipherInst → Ending) :
    (Ending.done v ci).andThen k = k v ci := rfl

@[simp] theorem Ending.andThen_raised (st : Status) (ci : CipherInst) (k : Bytes → CipherInst → Ending) :
    (Ending.raised st ci).andThen k = .raised st ci := rfl

/-- Everything two phases in sequence can do where they give a result. -/
theorem Ending.andThen_eq_done {e : Ending} {k : Bytes → CipherInst → Ending} {v : Bytes} {ci : CipherInst}
    (h : e.andThen k = .done v ci) : ∃ v' ci', e = .done v' ci' ∧ k v' ci' = .done v ci := by
  cases e with
  | raised st ci' => cases h
  | done v' ci' => exact ⟨v', ci', rfl, h⟩

/-- Keying with an accepted key (R102). -/
theorem rekey_accepted {P : Params} {k : Bytes} (h : P.keyOk k.length = true) (ci : CipherInst) (steps : CipherInst → Ending) :
    rekey P k ci steps = steps (.keyed k) := by simp [rekey, h]

/-- Keying with a rejected key (R102). -/
theorem rekey_rejected {P : Params} {k : Bytes} (h : P.keyOk k.length = false) (ci : CipherInst) (steps : CipherInst → Ending) :
    rekey P k ci steps = .raised .invalidKey ci := by simp [rekey, h]

/-- S2V with an accepted count and key (R150). -/
theorem s2vPhase_accepted {P : Params} {km : Bytes} {ad : List Bytes} (hn : ad.length ≤ 126) (hk : P.keyOk km.length = true)
    (pt : Bytes) (ci : CipherInst) : s2vPhase P km pt ad ci = .done (s2vTag (macUnder P km) pt ad) (.keyed km) := by
  simp [s2vPhase, Config.maxAd, rekey_accepted hk, Nat.not_lt.mpr hn]

/-- CTR with an accepted key (R170). -/
theorem ctrPhase_accepted {P : Params} {kc : Bytes} (hk : P.keyOk kc.length = true) (iv : Bytes) (nb : Nat) (ci : CipherInst) :
    ctrPhase P kc iv nb ci = .done (ctrKeystream (encUnder P kc) iv nb) (.keyed kc) := by
  simp [ctrPhase, rekey_accepted hk]

/-- Everything S2V can do where it gives a tag. -/
theorem s2vPhase_eq_done {P : Params} {km pt : Bytes} {ad : List Bytes} {ci ci' : CipherInst} {v : Bytes}
    (h : s2vPhase P km pt ad ci = .done v ci') :
    ad.length ≤ 126 ∧ P.keyOk km.length = true ∧ v = s2vTag (macUnder P km) pt ad ∧ ci' = .keyed km := by
  unfold s2vPhase rekey Config.maxAd at h
  split at h
  · cases h
  · split at h
    · cases h; exact ⟨by omega, ‹_›, rfl, rfl⟩
    · cases h

/-- Everything CTR can do where it gives a keystream. -/
theorem ctrPhase_eq_done {P : Params} {kc iv : Bytes} {nb : Nat} {ci ci' : CipherInst} {v : Bytes}
    (h : ctrPhase P kc iv nb ci = .done v ci') :
    P.keyOk kc.length = true ∧ v = ctrKeystream (encUnder P kc) iv nb ∧ ci' = .keyed kc := by
  unfold ctrPhase rekey at h
  split at h
  · cases h; exact ⟨‹_›, rfl, rfl⟩
  · cases h

end Sys2Proof.Machine
end

