-- ==== Sys2Proof/Laws/Exec.lean ====
section
/-! SUPPORT. Every command is one transition of the current channel. -/

namespace Sys2Proof.Machine

open Host (Outcome)

/-- What a command does to the channel it runs on, past the configuration check. -/
def commandOn : Instr → Nat → Channel → Channel
  | .xor => xorOn
  | .xorend => xorendOn
  | .pad => padOn
  | .shl1 => shl1On
  | .dbl => dblOn
  | .cteq => cteqOn
  | .s2v => s2vOn attached
  | .ctr => ctrOn attached
  | .seal_ => sealOn attached
  | .open_ => openOn attached

/-- Every arm of the dispatch is that transition of the current channel. -/
theorem exec_eq_runCommand (i : Instr) (s : State) : exec i s = runCommand s (commandOn i) := by cases i <;> rfl

/-- A command on a ready channel answers a next state, in which that channel alone is replaced. -/
theorem exec_of_ready {i : Instr} {s : State} {ch : Channel} (h : Ready s ch) :
    exec i s = .next (s.setChannel s.cur (commandOn i s.cur ch)) := by
  rw [exec_eq_runCommand, runCommand_of_ready h]

/-- Everything a command can do where it answers a next state. -/
theorem exec_next {i : Instr} {s t : State} (h : exec i s = .next t) :
    ∃ ch, s.channel? s.cur = some ch ∧ ch.fault = none ∧
      t = s.setChannel s.cur (if s.cfgOk then commandOn i s.cur ch else ch.raise .configuration) :=
  runCommand_next (exec_eq_runCommand i s ▸ h)

/-- Every ISSUE, of a legal or an illegal word, is a command of the current channel. -/
theorem issue_eq_runCommand (c : Nat) (w : Word) (s : State) :
    issue c w s = runCommand { s with cur := c }
      (match decode w with
        | .ok i => commandOn i
        | .error _ => fun _ ch => ch.raise .illegalCommand) := by
  cases h : decode w with
  | error e => simp only [issue, h, runIllegal]
  | ok i => simp only [issue, h, exec_eq_runCommand]

/-- No ending of the steps raises the code OK (R223). -/
theorem Ending.andThen_not_ok {e : Ending} {k : Bytes → CipherInst → Ending}
    (h : ∀ st ci, e = .raised st ci → st ≠ .ok) (hk : ∀ v ci st ci', k v ci = .raised st ci' → st ≠ .ok) :
    ∀ st ci, e.andThen k = .raised st ci → st ≠ .ok := by
  cases e with
  | raised st ci => exact h
  | done v ci => exact hk v ci

theorem s2vPhase_not_ok (P : Params) (km pt : Bytes) (ad : List Bytes) (ci : CipherInst) :
    ∀ st ci', s2vPhase P km pt ad ci = .raised st ci' → st ≠ .ok := by
  intro st ci'
  simp only [s2vPhase, rekey]
  repeat' split
  all_goals simp +contextual [eq_comm]

theorem ctrPhase_not_ok (P : Params) (kc iv : Bytes) (nb : Nat) (ci : CipherInst) :
    ∀ st ci', ctrPhase P kc iv nb ci = .raised st ci' → st ≠ .ok := by
  intro st ci'
  simp only [ctrPhase, rekey]
  split <;> simp +contextual [eq_comm]

/-- A command with an unset port records the fault for the first one (R225 step P3). -/
theorem commandOn_unset {i : Instr} {ch : Channel} {p : Port} (c : Nat)
    (hp : (portsRead i).find? (fun q => (ch.portValue q).isNone) = some p) :
    commandOn i c ch = ch.recordFault (.unsetOperand c p) := by
  obtain ⟨k, m, a, b, ad, nb, o, cc, st, ci, f⟩ := ch
  cases i <;>
    simp only [commandOn, xorOn, xorendOn, padOn, shl1On, dblOn, cteqOn, s2vOn, ctrOn, sealOn, openOn, operand, portsRead]
      at hp ⊢
  case xor | xorend | cteq => cases a <;> cases b <;> simp_all [Channel.portValue, List.find?]
  case pad | shl1 | dbl => cases a <;> simp_all [Channel.portValue, List.find?]
  case s2v => cases m <;> cases a <;> cases ad <;> simp_all [Channel.portValue, List.find?]
  case ctr => cases k <;> cases a <;> cases nb <;> simp_all [Channel.portValue, List.find?]
  case seal_ | open_ => cases k <;> cases m <;> cases a <;> cases ad <;> simp_all [Channel.portValue, List.find?]

/-- Everything a command whose ports are set can do: it writes an ending, in which a failure has not the code OK; or it is
SHL1, which writes `R_CARRY` too. -/
theorem commandOn_set {i : Instr} {ch : Channel} (c : Nat) (hp : ∀ p ∈ portsRead i, ch.portValue p ≠ none) :
    (∃ e, (∀ st ci, e = Ending.raised st ci → st ≠ .ok) ∧ commandOn i c ch = ch.finish e ∧ i ≠ .shl1) ∨
    (i = .shl1 ∧ ∃ a, ch.a = some a ∧ commandOn i c ch = shl1Steps ch a) := by
  obtain ⟨k, m, a, b, ad, nb, o, cc, st, ci, f⟩ := ch
  cases i <;>
    simp only [commandOn, xorOn, xorendOn, padOn, shl1On, dblOn, cteqOn, s2vOn, ctrOn, sealOn, openOn, operand, portsRead]
      at hp ⊢
  case xor | xorend | cteq =>
    cases a <;> cases b <;> simp_all [Channel.portValue, xorSteps, xorendSteps, cteqSteps]
    refine ⟨_, ?_, rfl⟩
    intro v ci
    split <;> simp +contextual [eq_comm]
  case pad | dbl =>
    cases a <;> simp_all [Channel.portValue, padSteps, dblSteps]
    refine ⟨_, ?_, rfl⟩
    intro v ci
    split <;> simp +contextual [eq_comm]
  case shl1 => cases a <;> simp_all [Channel.portValue]
  case s2v =>
    cases m <;> cases a <;> cases ad <;> simp_all [Channel.portValue]
    exact ⟨_, s2vPhase_not_ok _ _ _ _ _, rfl⟩
  case ctr =>
    cases k <;> cases a <;> cases nb <;> simp_all [Channel.portValue]
    refine ⟨_, ?_, rfl⟩
    unfold ctrSteps
    split
    · simp +contextual [eq_comm]
    · split
      · simp +contextual [eq_comm]
      · exact ctrPhase_not_ok _ _ _ _ _
  case seal_ =>
    cases k <;> cases m <;> cases a <;> cases ad <;> simp_all [Channel.portValue]
    refine ⟨_, ?_, rfl⟩
    unfold sealSteps
    split
    · simp +contextual [eq_comm]
    · exact Ending.andThen_not_ok (s2vPhase_not_ok _ _ _ _ _) fun _ _ =>
        Ending.andThen_not_ok (ctrPhase_not_ok _ _ _ _ _) fun _ _ _ _ h => nomatch h
  case open_ =>
    cases k <;> cases m <;> cases a <;> cases ad <;> simp_all [Channel.portValue]
    refine ⟨_, ?_, rfl⟩
    unfold openSteps
    split
    · simp +contextual [eq_comm]
    · refine Ending.andThen_not_ok (ctrPhase_not_ok _ _ _ _ _) fun _ _ => Ending.andThen_not_ok (s2vPhase_not_ok _ _ _ _ _) fun _ _ => ?_
      split <;> simp +contextual [eq_comm]

end Sys2Proof.Machine
end

