-- ==== Sys2Proof/Laws/Host.lean ====
section
/-! SUPPORT. What a host action can do, said once. -/

namespace Sys2Proof.Machine

open Host (Outcome)

theorem register?_eq_port {id : Nat} {p : Port} (h : register? id = some (.port p)) : id ≤ 5 := by
  unfold register? at h
  split at h <;> simp_all

theorem register?_eq_cmd {id : Nat} (h : register? id = some .cmd) : id = 12 := by
  unfold register? at h
  split at h <;> simp_all

/-- A channel and its replacement, and everything outside the channels and the host's readings as before. -/
def UpdatesChannel (s t : State) (c : Nat) : Prop :=
  t.cfgOk = s.cfgOk ∧ t.todo = s.todo ∧ t.index = s.index ∧
    ∃ ch ch', s.channel? c = some ch ∧ ch.fault = none ∧ t.channels = s.channels.set c ch'

theorem UpdatesChannel.of_setChannel {s t : State} {c : Nat} {ch ch' : Channel} (h : s.channel? c = some ch)
    (hf : ch.fault = none) (ht : Outcome.next (φ := Fault) (ρ := Refusal) (s.setChannel c ch') = .next t) :
    UpdatesChannel s t c := by
  cases ht
  exact ⟨rfl, rfl, rfl, ch, ch', h, hf, rfl⟩

theorem issue_next {s t : State} {c : Nat} {w : Word} (h : issue c w s = .next t) : UpdatesChannel s t c := by
  rw [issue_eq_runCommand] at h
  obtain ⟨ch, h1, h2, rfl⟩ := runCommand_next h
  exact ⟨rfl, rfl, rfl, ch, _, h1, h2, rfl⟩

theorem doWrite_next {s t : State} {c id : Nat} {v : PortValue} (h : doWrite c id v s = .next t) : UpdatesChannel s t c := by
  obtain ⟨ch, h1, h2, h3⟩ := onChannel_next h
  repeat' split at h3
  all_goals first | (cases h3; done) | exact .of_setChannel h1 h2 h3

/-- Everything a host action can do where it answers a next state: it replaces the channel it names, which had no fault. -/
theorem perform_next {act : Action} {s t : State} (h : perform act s = .next t) : UpdatesChannel s t act.chan := by
  cases act with
  | write c id v =>
    simp only [perform, writeOrIssue] at h
    split at h
    · split at h
      · exact issue_next h
      · exact doWrite_next h
    · exact doWrite_next h
  | issue c w => exact issue_next h
  | read c id =>
    obtain ⟨ch, h1, h2, h3⟩ := onChannel_next h
    repeat' split at h3
    all_goals first | (cases h3; done) | exact .of_setChannel h1 h2 h3 | skip
    cases h3
    exact ⟨rfl, rfl, rfl, ch, ch, h1, h2, (congrArg State.channels (State.setChannel_same h1)).symm⟩
  | clear c id | cpy c id | cpyad c id =>
    obtain ⟨ch, h1, h2, h3⟩ := onChannel_next h
    repeat' split at h3
    all_goals first | (cases h3; done) | exact .of_setChannel h1 h2 h3

/-- Everything a step can do where it answers a next state: with no action left and no fault anywhere it rests; otherwise it
performs the host's next action, with its program and index moved on. -/
theorem step_next {s t : State} (h : step s = .next t) :
    (s.todo = [] ∧ s.fault? = none ∧ t = s) ∨
    ∃ act rest, s.todo = act :: rest ∧ perform act { s with todo := rest, index := s.index + 1 } = .next t := by
  unfold step hostStep at h
  split at h
  · split at h
    · cases h; exact .inl ⟨‹_›, ‹_›, rfl⟩
    · cases h
  · exact .inr ⟨_, _, ‹_›, h⟩

end Sys2Proof.Machine
end

