-- ==== Sys2Proof/Laws/PerInstr.lean ====
section
/-! SUPPORT. A statement about every command as syntax: it is well formed, and its word has `RES` 0, its opcode in `OPC`
and is legal (spec/30_encoding.md rules R70, R72, R75). -/

namespace Sys2Proof.Laws.EncodesLegalWord

/-- The word of a command has the form of R70 and is legal. -/
def Statement (i : Instr) : Prop :=
  i.wf = true ∧ (encode i).res = 0 ∧ (encode i).opc = opcode i ∧ (encode i).wf = true

theorem xor : Statement .xor := by unfold Statement; decide
theorem xorend : Statement .xorend := by unfold Statement; decide
theorem pad : Statement .pad := by unfold Statement; decide
theorem shl1 : Statement .shl1 := by unfold Statement; decide
theorem dbl : Statement .dbl := by unfold Statement; decide
theorem cteq : Statement .cteq := by unfold Statement; decide
theorem s2v : Statement .s2v := by unfold Statement; decide
theorem ctr : Statement .ctr := by unfold Statement; decide
theorem seal_ : Statement .seal_ := by unfold Statement; decide
theorem open_ : Statement .open_ := by unfold Statement; decide

end Sys2Proof.Laws.EncodesLegalWord
end

