-- ==== Sys2Proof/Tests/Slice0.lean ====
section
/-! SUPPORT. Tests: words from the encoding of spec/30_encoding.md, ill-formed terms, one command each on the vectors of
spec/95_test_vectors.md, and for every statement a state that meets its hypotheses. -/

namespace Sys2Proof.Tests

open Sys2Proof Sys2Proof.Machine Host

/-! ### Decoding: each word is `RES` (24 zero bits) and then the opcode's eight bits (R70, R75) -/

theorem test_decode_xor : decode 0b000000000000000000000000_00000001 = .ok .xor := by decide
theorem test_decode_xorend : decode 0b000000000000000000000000_00000010 = .ok .xorend := by decide
theorem test_decode_pad : decode 0b000000000000000000000000_00000011 = .ok .pad := by decide
theorem test_decode_shl1 : decode 0b000000000000000000000000_00000100 = .ok .shl1 := by decide
theorem test_decode_dbl : decode 0b000000000000000000000000_00000101 = .ok .dbl := by decide
theorem test_decode_cteq : decode 0b000000000000000000000000_00000110 = .ok .cteq := by decide
theorem test_decode_s2v : decode 0b000000000000000000000000_00010000 = .ok .s2v := by decide
theorem test_decode_ctr : decode 0b000000000000000000000000_00100000 = .ok .ctr := by decide
theorem test_decode_seal : decode 0b000000000000000000000000_00110000 = .ok .seal_ := by decide
theorem test_decode_open : decode 0b000000000000000000000000_00110001 = .ok .open_ := by decide

/-- R76, L2-STATUS: opcode 0 and opcode 7 are unassigned; `0x130` has a reserved bit set, and is refused for that. -/
theorem test_decode_illegal :
    decode 0x00000000 = .error .unassignedOpcode ∧ decode 0x00000007 = .error .unassignedOpcode ∧
    decode 0x00000130 = .error .reservedBits ∧ decode 0x80000001 = .error .reservedBits := by decide

/-- The table's numbering: bit 0 is the least significant bit of the word. -/
theorem test_decodeTableWord : decodeTableWord 32 0x31 = some .open_ ∧ decodeTableWord 8 0x31 = some .open_ ∧
    decodeTableWord 32 0x131 = none := by decide

/-- The encoder's words, from R75's table. -/
theorem test_encode : [Instr.xor, .xorend, .pad, .shl1, .dbl, .cteq, .s2v, .ctr, .seal_, .open_].map encode =
    [0x01, 0x02, 0x03, 0x04, 0x05, 0x06, 0x10, 0x20, 0x30, 0x31] := by decide

/-! ### WellFormed: an ill-formed term for each check -/

theorem test_wf_instr : Instr.wf .xor = true ∧ Instr.wf .open_ = true := by decide
theorem test_wf_word : Word.wf 0x30 = true ∧ Word.wf 0x130 = false ∧ Word.wf 0x07 = false := by decide
theorem test_wf_channel : Action.wf 1 4 (.issue 0 0) = true ∧ Action.wf 1 4 (.issue 1 0) = false ∧
    Action.wf 1 4 (.write 1 0 (.bytes [])) = false ∧ Action.wf 1 4 (.clear 1 0) = false ∧
    Action.wf 1 4 (.read 1 8) = false ∧ Action.wf 1 4 (.cpy 1 0) = false ∧ Action.wf 1 4 (.cpyad 1 0) = false := by decide
theorem test_wf_id : Action.wf 1 4 (.clear 0 5) = true ∧ Action.wf 1 4 (.clear 0 6) = false ∧
    Action.wf 1 4 (.read 0 8) = true ∧ Action.wf 1 4 (.read 0 7) = false ∧ Action.wf 1 4 (.read 0 11) = false ∧
    Action.wf 1 4 (.cpy 0 3) = true ∧ Action.wf 1 4 (.cpy 0 4) = false ∧ Action.wf 1 4 (.cpy 0 5) = false := by decide
theorem test_wf_value : Action.wf 1 2 (.write 0 2 (.bytes [1, 2])) = true ∧
    Action.wf 1 2 (.write 0 2 (.bytes [1, 2, 3])) = false ∧ Action.wf 1 2 (.write 0 2 (.int 1)) = false ∧
    Action.wf 1 2 (.write 0 4 (.list [[1], []])) = true ∧ Action.wf 1 2 (.write 0 4 (.list [[1, 2, 3]])) = false ∧
    Action.wf 1 2 (.write 0 5 (.int (2 ^ 32 - 1))) = true ∧ Action.wf 1 2 (.write 0 5 (.int (2 ^ 32))) = false ∧
    Action.wf 1 2 (.write 0 12 (.int 1)) = true ∧ Action.wf 1 2 (.write 0 8 (.bytes [])) = false := by decide

/-! ### The bit primitives, on one channel of a configured block (spec/95 L2-XOR to L2-CTEQ) -/

/-- The `n` bytes of a number written in hexadecimal, first byte first. -/
def hexBytes (n v : Nat) : Bytes := (List.range n).map fun i => BitVec.ofNat 8 (v / 256 ^ (n - 1 - i))

/-- A configured block with one channel. -/
def one (ch : Channel) : State where
  cfgOk := true
  channels := [ch]
  cur := 0
  todo := []
  index := 0
  reads := []

/-- The current channel of the next state. -/
def after : Outcome State Fault Refusal → Option Channel
  | .next s => s.channel? s.cur
  | _ => none

/-- The result registers after an outcome. -/
def results (o : Outcome State Fault Refusal) : Option (Option Bytes × Option Status × Option Bit) :=
  (after o).map fun ch => (ch.out, ch.status, ch.carry)

/-- A channel with its two data ports set. -/
def withAB (a b : Bytes) : Channel := { Channel.reset with a := some a, b := some b }

/-- A channel with `P_A` set, and an earlier carry of 1 in `R_CARRY`. -/
def withA (a : Bytes) : Channel := { Channel.reset with a := some a, carry := some 1 }

theorem test_xor : results (exec .xor (one (withAB [0x01, 0x02] [0xff, 0x00, 0xaa]))) =
    some (some [0xfe, 0x02], some .ok, none) := by decide
theorem test_xor_length : results (exec .xor (one (withAB [1, 2, 3] [1, 2]))) =
    some (some [], some .invalidInput, none) := by decide
theorem test_xorend : results (exec .xorend (one (withAB [0x11, 0x22, 0x33, 0x44] [0x01, 0x01]))) =
    some (some [0x11, 0x22, 0x32, 0x45], some .ok, none) := by decide
theorem test_xorend_length : results (exec .xorend (one (withAB [0x11] [0x11, 0x22]))) =
    some (some [], some .invalidInput, none) := by decide
theorem test_pad : results (exec .pad (one (withA (hexBytes 15 0x112233445566778899aabbccddeeff)))) =
    some (some (hexBytes 16 0x112233445566778899aabbccddeeff80), some .ok, some 1) := by decide
theorem test_pad_length : results (exec .pad (one (withA (hexBytes 16 0)))) =
    some (some [], some .invalidInput, some 1) := by decide
theorem test_shl1 : results (exec .shl1 (one (withA (hexBytes 16 0xedf09de876c642ee4d78bce4ceedfc4f)))) =
    some (some (hexBytes 16 0xdbe13bd0ed8c85dc9af179c99ddbf89e), some .ok, some 1) ∧
    results (exec .shl1 (one (withA (hexBytes 16 0x00800000000000000000000000000000)))) =
    some (some (hexBytes 16 0x01000000000000000000000000000000), some .ok, some 0) := by decide
theorem test_shl1_length : results (exec .shl1 (one (withA (hexBytes 15 0)))) =
    some (some [], some .invalidInput, some 1) := by decide
theorem test_dbl : results (exec .dbl (one (withA (hexBytes 16 0xedf09de876c642ee4d78bce4ceedfc4f)))) =
    some (some (hexBytes 16 0xdbe13bd0ed8c85dc9af179c99ddbf819), some .ok, some 1) ∧
    results (exec .dbl (one (withA (hexBytes 16 0x0e04dfafc1efbf040140582859bf073a)))) =
    some (some (hexBytes 16 0x1c09bf5f83df7e080280b050b37e0e74), some .ok, some 1) := by decide
theorem test_dbl_length : results (exec .dbl (one (withA (hexBytes 17 0)))) =
    some (some [], some .invalidInput, some 1) := by decide
theorem test_cteq : results (exec .cteq (one (withAB (hexBytes 16 0x85632d07c6e8f37f950acd320a2ecc93)
      (hexBytes 16 0x85632d07c6e8f37f950acd320a2ecc93)))) = some (some [0x00], some .ok, none) ∧
    results (exec .cteq (one (withAB (hexBytes 16 0x05632d07c6e8f37f950acd320a2ecc93)
      (hexBytes 16 0x85632d07c6e8f37f950acd320a2ecc93)))) = some (some [0x80], some .ok, none) := by decide
theorem test_cteq_length : results (exec .cteq (one (withAB (hexBytes 15 0) (hexBytes 16 0)))) =
    some (some [], some .invalidInput, none) := by decide

/-! ### S2V, CTR, SEAL and OPEN with the values of AES-128 that spec/95 L1-1 and L2-CTR give

The AES values inside CMAC are hand calculations from FIPS-197; the CMAC values they lead to are the spec's. -/

/-- The keys of L1-1. -/
def kc : Bytes := hexBytes 16 0xf0f1f2f3f4f5f6f7f8f9fafbfcfdfeff
def km : Bytes := hexBytes 16 0xfffefdfcfbfaf9f8f7f6f5f4f3f2f1f0

/-- The plaintext, associated data and output of L1-1. -/
def pt : Bytes := hexBytes 14 0x112233445566778899aabbccddee
def ad : Bytes := hexBytes 24 0x101112131415161718191a1b1c1d1e1f2021222324252627
def sealed : Bytes := hexBytes 30 0x85632d07c6e8f37f950acd320a2ecc9340c02b9690c4dc04daef7f6afe5c

/-- AES-128 on the blocks these tests need: key, input, output. -/
def aesRows : List (Bytes × Bytes × Bytes) :=
  [(km, hexBytes 16 0, hexBytes 16 0x7601fc626e81e07327fd28569a01fb5e),
   (km, hexBytes 16 0xec03f8c4dd03c0e64ffa50ad3403f6bc, hexBytes 16 0x0e04dfafc1efbf040140582859bf073a),
   (km, hexBytes 16 0x101112131415161718191a1b1c1d1e1f, hexBytes 16 0xd81e73df30857d8216138fccbbe947c2),
   (km, hexBytes 16 0x2038a075aea7da6909e72e96d3eeaa3d, hexBytes 16 0xf1f922b7f5193ce64ff80cb47d93f23b)] ++
  [(km, hexBytes 16 0x26c0f05065e932b24ca192a874368ea5, hexBytes 16 0x85632d07c6e8f37f950acd320a2ecc93),
   (km, hexBytes 16 0x700a479b5edcbeee4d7ae0fd877df8c8, hexBytes 16 0xf2007a5beb2b8900c588a7adf599f172),
   (kc, hexBytes 16 0x85632d07c6e8f37f150acd320a2ecc93, hexBytes 16 0x51e218d2c5a2ab8c4345c4a623b2f08f)]

/-- A block cipher given by rows; blocks that are not listed go to zero. -/
def tableCipher (rows : List (Bytes × Bytes × Bytes)) (k : Bytes) (x : Block16) : Block16 :=
  match rows.find? fun r => r.1 == k && r.2.1 == x.toList with
  | some r => toBlock r.2.2
  | none => toBlock []

/-- The collaborators of the tests: the listed AES values, CMAC over them, the AES key lengths, the default `MAX_LEN`. -/
def aesParams : Params where
  bc := tableCipher aesRows
  cmac := cmacRfc4493 (tableCipher aesRows)
  keyOk := Config.keyOkAes
  maxLen := Config.maxLenDefault

/-- A channel with every port set. -/
def withAll (ctr mac a : Bytes) (ads : List Bytes) (nb : BitVec 32) : Channel :=
  { Channel.reset with ctrkey := some ctr, mackey := some mac, a := some a, ad := some ads, nb := some nb }

/-- `R_OUT` and `R_STATUS` of a channel. -/
def outStatus (ch : Channel) : Option Bytes × Option Status := (ch.out, ch.status)

/-- L1-1: the CMAC values of R104 over AES, one block and two. -/
theorem test_cmac : macUnder aesParams km (hexBytes 16 0) = hexBytes 16 0x0e04dfafc1efbf040140582859bf073a ∧
    macUnder aesParams km ad = hexBytes 16 0xf1f922b7f5193ce64ff80cb47d93f23b := by decide +kernel

/-- L1-1: the synthetic IV. -/
theorem test_s2v : outStatus (s2vOn aesParams 0 (withAll kc km pt [ad] 0)) =
    (some (hexBytes 16 0x85632d07c6e8f37f950acd320a2ecc93), some .ok) := by decide +kernel
/-- L2-S2V-9 to 11: the count is checked before the key. -/
theorem test_s2v_order :
    outStatus (s2vOn aesParams 0 (withAll kc (hexBytes 15 0) [] (List.replicate 127 []) 0)) =
      (some [], some .invalidInput) ∧
    outStatus (s2vOn aesParams 0 (withAll kc (hexBytes 15 0) [] [] 0)) = (some [], some .invalidKey) := by decide +kernel

/-- L2-CTR: one block, with bit 7 of byte 8 of the IV cleared; and no block, where the key is still checked (R173). -/
theorem test_ctr : outStatus (ctrOn aesParams 0 (withAll kc km (hexBytes 16 0x85632d07c6e8f37f950acd320a2ecc93) [] 1)) =
      (some (hexBytes 16 0x51e218d2c5a2ab8c4345c4a623b2f08f), some .ok) ∧
    outStatus (ctrOn aesParams 0 (withAll kc km (hexBytes 16 0) [] 0)) = (some [], some .ok) ∧
    outStatus (ctrOn aesParams 0 (withAll (hexBytes 15 0) km (hexBytes 16 0) [] 0)) = (some [], some .invalidKey) ∧
    outStatus (ctrOn aesParams 0 (withAll kc km (hexBytes 16 0) [] (2 ^ 27))) = (some [], some .invalidInput) ∧
    outStatus (ctrOn aesParams 0 (withAll kc km (hexBytes 15 0) [] 1)) = (some [], some .invalidInput) := by decide +kernel
/-- L2-CTR, second row: the counter is a 64-bit number over bytes 8 to 15, with no carry out of a masked bit. -/
theorem test_ctr_counters : counterBlocks (hexBytes 16 0xffffffffffffffffffffffffffffffff) 3 =
    [hexBytes 16 0xffffffffffffffff7fffffff7fffffff, hexBytes 16 0xffffffffffffffff7fffffff80000000,
     hexBytes 16 0xffffffffffffffff7fffffff80000001] := by decide +kernel

/-- L1-1. -/
theorem test_seal : outStatus (sealOn aesParams 0 (withAll kc km pt [ad] 0)) = (some sealed, some .ok) := by decide +kernel
/-- L2-E-12, 13 and 15: S2V's checks come before CTR's. -/
theorem test_seal_order :
    outStatus (sealOn aesParams 0 (withAll (hexBytes 15 0) km [] (List.replicate 127 []) 0)) = (some [], some .invalidInput) ∧
    outStatus (sealOn aesParams 0 (withAll (hexBytes 15 0) km [] [] 0)) = (some [], some .invalidKey) ∧
    outStatus (sealOn { aesParams with maxLen := 29 } 0 (withAll kc km pt [ad] 0)) = (some [], some .invalidInput) := by
  decide +kernel

/-- L1-1 opened, and L1-4: the last bit flipped. -/
theorem test_open : outStatus (openOn aesParams 0 (withAll kc km sealed [ad] 0)) = (some pt, some .ok) ∧
    outStatus (openOn aesParams 0 (withAll kc km (sealed.modify 29 (· ^^^ 1)) [ad] 0)) = (some [], some .unauthentic) := by
  decide +kernel
/-- L1-6 and L2-E-14: the length comes before every key, CTR's key before S2V's count. -/
theorem test_open_order :
    outStatus (openOn aesParams 0 (withAll [] [] (hexBytes 15 0) [] 0)) = (some [], some .invalidLength) ∧
    outStatus (openOn aesParams 0 (withAll (hexBytes 15 0) km (hexBytes 16 0) (List.replicate 127 []) 0)) =
      (some [], some .invalidKey) ∧
    outStatus (openOn aesParams 0 (withAll kc km (hexBytes 16 0) (List.replicate 127 []) 0)) =
      (some [], some .invalidInput) := by decide +kernel

/-! ### Statuses, host actions and the assembler -/

/-- A block that reported an unusable cipher, with one channel. -/
def unconfigured : State := { one Channel.reset with cfgOk := false }

/-- A configured block whose channel 0 has `P_A` alone set. -/
def onlyA : State := one { Channel.reset with a := some [1, 2] }

/-- L2-STATUS: `CONFIGURATION` before the word is decoded, and an illegal word before any port is read. -/
theorem test_status_order :
    results (issue 0 0x00 unconfigured) = some (some [], some .configuration, none) ∧
    results (issue 0 0x30 unconfigured) = some (some [], some .configuration, none) ∧
    results (issue 0 0x07 (one Channel.reset)) = some (some [], some .illegalCommand, none) := by decide
/-- L2-STATUS: the unset `P_B` is recorded, and no result register is written. -/
theorem test_unset_operand :
    (after (issue 0 0x01 onlyA)).map (·.fault) = some (some (.unsetOperand 0 .b)) ∧
    results (issue 0 0x01 onlyA) = some (none, none, none) := by decide

/-- The first action the host has left. -/
def nextAction (s : State) : Option Action := s.todo.head?

/-- The word placed for the next step is issued on channel 0. -/
theorem test_withFetchWord : nextAction (State.reset.withFetchWord 32 0x31) = some (.issue 0 0x31) := rfl

/-- After reset, channel 0 exists and nothing is set in it (R46). -/
theorem test_reset : State.reset.channel? 0 = some Channel.reset := by
  simp [State.channel?, State.reset, Config.nCh]

/-- R85: a line with a channel and a comment, a byte string with a space in it, a list, a word, and a macro of R86. -/
theorem test_assemble :
    assemble "wr a, h'01 02' ; x\n@1: wr ad, [h'', h'ff']\n@1: cpyad\n.word 0x00000100\nwipe\nxor" = some
      [.write 0 2 (.bytes [1, 2]), .write 1 4 (.list [[], [255]]), .cpyad 1 2, .issue 0 0x100, .clear 0 0, .clear 0 1,
       .issue 0 1] := by decide +kernel
theorem test_assemble_rejects : assemble "cpy nb" = none ∧ assemble "wr a" = none ∧ assemble "rd a" = none ∧
    assemble "wr a, h'012'" = none := by decide +kernel

/-! ### Host actions on a channel of a configured block (R39, R45, R47) -/

theorem test_read_unset : (after (perform (.read 0 8) (one Channel.reset))).map (·.fault) =
    some (some (.unsetResult 0 .out)) := by decide
theorem test_refused_actions :
    perform (.read 0 12) (one Channel.reset) = .refused (.notReadable 0 12) ∧
    perform (.write 0 8 (.bytes [])) (one Channel.reset) = .refused (.notWritable 0 8) ∧
    perform (.clear 0 6) (one Channel.reset) = .refused (.unassignedId 0 6) ∧
    perform (.write 0 5 (.int (2 ^ 32))) (one Channel.reset) = .refused (.outOfDomain 0 5) ∧
    perform (.cpy 0 4) (one Channel.reset) = .refused (.cpyTarget 0 4) ∧
    perform (.cpyad 0 0) (one Channel.reset) = .refused (.cpyadUnsetAd 0) ∧
    perform (.issue 1 1) (one Channel.reset) = .refused (.noSuchChannel 1) := ⟨rfl, rfl, rfl, rfl, rfl, rfl, rfl⟩
/-- P5 of spec/95: on a faulted channel there is no further move. -/
theorem test_faulted : perform (.write 0 3 (.bytes [3, 4])) (one { withA [1, 2] with fault := some (.unsetOperand 0 .b) }) =
    .fault (.unsetOperand 0 .b) := rfl

/-- One channel, and a host about to perform one action. -/
def oneDo (ch : Channel) (act : Action) : State := { one ch with todo := [act] }

/-- P5 of spec/95: with nothing left to do the run does not rest in the faulted state; without a fault it does (R229). -/
theorem test_final :
    step (one { withA [1, 2] with fault := some (.unsetOperand 0 .b) }) = .fault (.unsetOperand 0 .b) ∧
    (one { withA [1, 2] with fault := some (.unsetOperand 0 .b) }).final = false ∧
    step (one (withA [1, 2])) = .next (one (withA [1, 2])) ∧ (one (withA [1, 2])).final = true ∧
    (oneDo (withA [1, 2]) (.clear 0 2)).final = false := ⟨rfl, rfl, rfl, rfl, rfl⟩

/-! ### Witnesses: for each statement with hypotheses, concrete values that meet them, clause by clause -/

/-- A key of an accepted length, and one of a rejected length. -/
def goodKey : Bytes := List.replicate Config.someKeyLen 0
def badKey : Bytes := List.replicate Config.rejectedKeyLen 0

theorem goodKey_ok : Config.keyOk goodKey.length = true := by simp [goodKey]
theorem badKey_bad : Config.keyOk badKey.length = false := by simp [badKey]

theorem ready_one {ch : Channel} (h : ch.fault = none) : Ready (one ch) ch := ⟨rfl, h, rfl⟩

/-- Two channels. -/
def two (x y : Channel) : State := { one x with channels := [x, y] }

theorem witness_StepRunsTheIssuedCommand :
    (oneDo (withAB [1] [2]) (.issue 0 1)).todo = [.issue 0 1] ∧ decode 1 = .ok .xor := ⟨rfl, by decide⟩

theorem witness_IllegalWordEndsWithIllegalCommand :
    (oneDo Channel.reset (.issue 0 0x130)).todo = [.issue 0 0x130] ∧ (∀ i, encode i ≠ 0x130) ∧
    (oneDo Channel.reset (.issue 0 0x130)).channel? 0 = some Channel.reset ∧ Channel.reset.fault = none ∧
    (oneDo Channel.reset (.issue 0 0x130)).cfgOk = true :=
  ⟨rfl, by intro i; cases i <;> decide, rfl, rfl, rfl⟩

theorem witness_UnconfiguredBlockAnswersConfiguration :
    ({ unconfigured with todo := [.issue 0 0] } : State).todo = [.issue 0 0] ∧
    unconfigured.channel? 0 = some Channel.reset ∧ Channel.reset.fault = none ∧ unconfigured.cfgOk = false :=
  ⟨rfl, rfl, rfl, rfl⟩

theorem witness_FirstUnsetOperandIsRecorded :
    Ready (one (withA [1])) (withA [1]) ∧
    [Port.a, .b].find? (fun q => ((withA [1]).portValue q).isNone) = some .b ∧
    [Port.ctrkey, .mackey, .a, .ad].find? (fun q => ((withA [1]).portValue q).isNone) = some .ctrkey :=
  ⟨ready_one rfl, by decide, by decide⟩

theorem witness_EveryCommandEndsWithItsResultsWritten :
    Ready (one (withAll kc km [] [] 0)) (withAll kc km [] [] 0) ∧
    ∀ p ∈ portsRead .seal_, (withAll kc km [] [] 0).portValue p ≠ none :=
  ⟨ready_one rfl, by simp [portsRead, Channel.portValue, withAll]⟩

theorem witness_CommandFrame : ∃ t, exec .xor (one (withAB [1] [2])) = .next t := ⟨_, rfl⟩

theorem witness_FailureLeavesNoErrorState : ∃ s₁ ch₁,
    Ready (one (withAB [1, 2] [3])) (withAB [1, 2] [3]) ∧ exec .xor (one (withAB [1, 2] [3])) = .next s₁ ∧
    s₁.channel? 0 = some ch₁ ∧ ch₁.fault = none ∧ ch₁.status ≠ some .ok :=
  ⟨_, _, ready_one rfl, rfl, rfl, rfl, by decide⟩

theorem witness_XorWritesTheBytewiseXor :
    Ready (one (withAB [1, 2] [3, 4])) (withAB [1, 2] [3, 4]) ∧ (withAB [1, 2] [3, 4]).a = some [1, 2] ∧
    (withAB [1, 2] [3, 4]).b = some [3, 4] ∧ [1, 2].length ≤ [3, 4].length ∧
    Ready (one (withAB [1, 2] [3])) (withAB [1, 2] [3]) ∧ [1, 2].length > [3].length :=
  ⟨ready_one rfl, rfl, rfl, by decide, ready_one rfl, by decide⟩

theorem witness_XorendXorsTheLastBytes :
    Ready (one (withAB [1, 2] [3, 4])) (withAB [1, 2] [3, 4]) ∧ (withAB [1, 2] [3, 4]).a = some [1, 2] ∧
    (withAB [1, 2] [3, 4]).b = some [3, 4] ∧ [1, 2].length ≥ [3, 4].length ∧
    Ready (one (withAB [1] [2, 3])) (withAB [1] [2, 3]) ∧ [1].length < [2, 3].length :=
  ⟨ready_one rfl, rfl, rfl, by decide, ready_one rfl, by decide⟩

/-- Fifteen, sixteen and seventeen bytes: the lengths where the clauses of PAD, SHL1 and DBL meet. -/
theorem witness_blockLengths :
    Ready (one (withA (hexBytes 15 0))) (withA (hexBytes 15 0)) ∧ (withA (hexBytes 15 0)).a = some (hexBytes 15 0) ∧
    (hexBytes 15 0).length < 16 ∧ (hexBytes 15 0).length ≠ 16 ∧
    Ready (one (withA (hexBytes 16 0))) (withA (hexBytes 16 0)) ∧ (withA (hexBytes 16 0)).a = some (hexBytes 16 0) ∧
    (hexBytes 16 0).length = 16 ∧ (hexBytes 16 0).length ≥ 16 ∧
    Ready (one (withA (hexBytes 17 0))) (withA (hexBytes 17 0)) ∧ (hexBytes 17 0).length ≠ 16 :=
  ⟨ready_one rfl, rfl, by decide, by decide, ready_one rfl, rfl, by decide, by decide, ready_one rfl, by decide⟩

theorem witness_PadFillsOneBlock : ∃ (s : State) (ch : Channel) (a : Bytes), Ready s ch ∧ ch.a = some a ∧ a.length < 16 :=
  ⟨_, _, hexBytes 15 0, ready_one (ch := withA (hexBytes 15 0)) rfl, rfl, by decide⟩

theorem witness_Shl1ShiftsAndWritesTheCarry :
    ∃ (s : State) (ch : Channel) (a : Bytes), Ready s ch ∧ ch.a = some a ∧ a.length = 16 :=
  ⟨_, _, hexBytes 16 0, ready_one (ch := withA (hexBytes 16 0)) rfl, rfl, by decide⟩

theorem witness_DblShiftsAndReduces :
    ∃ (s : State) (ch : Channel) (a : Bytes), Ready s ch ∧ ch.a = some a ∧ a.length = 16 :=
  ⟨_, _, hexBytes 16 0, ready_one (ch := withA (hexBytes 16 0)) rfl, rfl, by decide⟩

theorem witness_DblIsMultiplicationByXInTheField : (hexBytes 16 0x87).length = 16 := by decide

theorem witness_DblTraceDoesNotDependOnTheData : (hexBytes 16 0).length = 16 ∧ (hexBytes 16 1).length = 16 := by decide

theorem witness_CompareTraceDoesNotDependOnTheData : (hexBytes 16 0).length = 16 ∧ (hexBytes 16 1).length = 16 := by decide

theorem witness_CteqWritesTheAccumulator :
    Ready (one (withAB (hexBytes 16 0) (hexBytes 16 1))) (withAB (hexBytes 16 0) (hexBytes 16 1)) ∧
    (withAB (hexBytes 16 0) (hexBytes 16 1)).a = some (hexBytes 16 0) ∧
    (withAB (hexBytes 16 0) (hexBytes 16 1)).b = some (hexBytes 16 1) ∧
    (hexBytes 16 0).length = 16 ∧ (hexBytes 16 1).length = 16 ∧
    Ready (one (withAB (hexBytes 15 0) (hexBytes 16 1))) (withAB (hexBytes 15 0) (hexBytes 16 1)) ∧
    (hexBytes 15 0).length ≠ 16 :=
  ⟨ready_one rfl, rfl, rfl, by decide, by decide, ready_one rfl, by decide⟩

/-- The keyed commands: a ready channel with each pair of keys, both sides of `MAX_AD`, and both sides of the bounds. -/
theorem witness_keyedChannel (ctr mac a : Bytes) (ads : List Bytes) (nb : BitVec 32) :
    Ready (one (withAll ctr mac a ads nb)) (withAll ctr mac a ads nb) ∧ (withAll ctr mac a ads nb).ctrkey = some ctr ∧
    (withAll ctr mac a ads nb).mackey = some mac ∧ (withAll ctr mac a ads nb).a = some a ∧
    (withAll ctr mac a ads nb).ad = some ads ∧ (withAll ctr mac a ads nb).nb = some nb :=
  ⟨ready_one rfl, rfl, rfl, rfl, rfl, rfl⟩

theorem witness_S2vComputesTheSyntheticIv :
    (∃ (s : State) (ch : Channel) (km pt : Bytes) (ad : List Bytes), Ready s ch ∧ ch.mackey = some km ∧ ch.a = some pt ∧
      ch.ad = some ad ∧ ad.length = 126 ∧ Config.keyOk km.length = true) ∧
    (∃ (s : State) (ch : Channel) (km pt : Bytes) (ad : List Bytes), Ready s ch ∧ ch.mackey = some km ∧ ch.a = some pt ∧
      ch.ad = some ad ∧ ad.length = 126 ∧ Config.keyOk km.length = false) ∧
    (∃ (s : State) (ch : Channel) (km pt : Bytes) (ad : List Bytes), Ready s ch ∧ ch.mackey = some km ∧ ch.a = some pt ∧
      ch.ad = some ad ∧ ad.length = 127 ∧ Config.keyOk km.length = false) := by
  obtain ⟨h1, -, h3, h4, h5, -⟩ := witness_keyedChannel [] goodKey [] (List.replicate 126 []) 0
  obtain ⟨g1, -, g3, g4, g5, -⟩ := witness_keyedChannel [] badKey [] (List.replicate 126 []) 0
  obtain ⟨f1, -, f3, f4, f5, -⟩ := witness_keyedChannel [] badKey [] (List.replicate 127 []) 0
  exact ⟨⟨_, _, _, _, _, h1, h3, h4, h5, List.length_replicate .., goodKey_ok⟩,
    ⟨_, _, _, _, _, g1, g3, g4, g5, List.length_replicate .., badKey_bad⟩,
    ⟨_, _, _, _, _, f1, f3, f4, f5, List.length_replicate .., badKey_bad⟩⟩

theorem witness_S2vCornerCases :
    (∀ m, (macUnder aesParams km m).length = 16) ∧ (hexBytes 15 0).length = 15 ∧ (hexBytes 16 0).length = 16 ∧
    (hexBytes 17 0).length > 16 := ⟨by simp, by decide, by decide, by decide⟩

theorem witness_CtrWritesTheKeystream :
    (∃ (s : State) (ch : Channel) (kc iv : Bytes) (nb : BitVec 32), Ready s ch ∧ ch.ctrkey = some kc ∧ ch.a = some iv ∧
      ch.nb = some nb ∧ iv.length = 16 ∧ nb.toNat * 16 ≤ Config.maxLen ∧ nb ≠ 0 ∧ Config.keyOk kc.length = true) ∧
    (∃ (s : State) (ch : Channel) (kc iv : Bytes) (nb : BitVec 32), Ready s ch ∧ ch.ctrkey = some kc ∧ ch.a = some iv ∧
      ch.nb = some nb ∧ iv.length = 16 ∧ nb.toNat * 16 ≤ Config.maxLen ∧ nb = 0 ∧ Config.keyOk kc.length = false) ∧
    (∃ (s : State) (ch : Channel) (kc iv : Bytes) (nb : BitVec 32), Ready s ch ∧ ch.ctrkey = some kc ∧ ch.a = some iv ∧
      ch.nb = some nb ∧ iv.length ≠ 16) := by
  obtain ⟨h1, h2, -, h4, -, h6⟩ := witness_keyedChannel goodKey [] (hexBytes 16 0) [] 1
  obtain ⟨g1, g2, -, g4, -, g6⟩ := witness_keyedChannel badKey [] (hexBytes 16 0) [] 0
  obtain ⟨f1, f2, -, f4, -, f6⟩ := witness_keyedChannel goodKey [] (hexBytes 15 0) [] 1
  exact ⟨⟨_, _, _, _, _, h1, h2, h4, h6, by decide, by simp [Config.maxLen], by decide, goodKey_ok⟩,
    ⟨_, _, _, _, _, g1, g2, g4, g6, by decide, by simp, rfl, badKey_bad⟩,
    ⟨_, _, _, _, _, f1, f2, f4, f6, by decide⟩⟩

theorem witness_CounterNeverWraps : (hexBytes 16 (2 ^ 128 - 1)).length = 16 ∧ 1 < 2 ^ 32 ∧ 0 < 1 ∧ 1 * 16 ≤ Config.maxLenDefault := by
  decide

/-- The sealing commands at `MAX_LEN - 16` bytes of plaintext and one byte more, at 126 and 127 elements, and with each key
rejected alone. -/
theorem witness_SealEmitsIvThenCiphertext :
    (∃ (s : State) (ch : Channel) (kc km pt : Bytes) (ad : List Bytes), Ready s ch ∧ ch.ctrkey = some kc ∧
      ch.mackey = some km ∧ ch.a = some pt ∧ ch.ad = some ad ∧ pt.length + 16 = Config.maxLen ∧ ad.length = 126 ∧
      Config.keyOk km.length = true ∧ Config.keyOk kc.length = true) ∧
    (∃ (s : State) (ch : Channel) (kc km pt : Bytes) (ad : List Bytes), Ready s ch ∧ ch.ctrkey = some kc ∧
      ch.mackey = some km ∧ ch.a = some pt ∧ ch.ad = some ad ∧ pt.length + 16 ≤ Config.maxLen ∧ ad.length ≤ 126 ∧
      Config.keyOk km.length = true ∧ Config.keyOk kc.length = false) ∧
    (∃ (s : State) (ch : Channel) (kc km pt : Bytes) (ad : List Bytes), Ready s ch ∧ ch.ctrkey = some kc ∧
      ch.mackey = some km ∧ ch.a = some pt ∧ ch.ad = some ad ∧ pt.length + 16 ≤ Config.maxLen ∧ ad.length ≤ 126 ∧
      Config.keyOk km.length = false) ∧
    (∃ (s : State) (ch : Channel) (kc km pt : Bytes) (ad : List Bytes), Ready s ch ∧ ch.ctrkey = some kc ∧
      ch.mackey = some km ∧ ch.a = some pt ∧ ch.ad = some ad ∧ pt.length + 16 = Config.maxLen + 1) := by
  obtain ⟨h1, h2, h3, h4, h5, -⟩ :=
    witness_keyedChannel goodKey goodKey (List.replicate Config.maxLenSlack 0) (List.replicate 126 []) 0
  obtain ⟨g1, g2, g3, g4, g5, -⟩ := witness_keyedChannel badKey goodKey [] [] 0
  obtain ⟨f1, f2, f3, f4, f5, -⟩ := witness_keyedChannel goodKey badKey [] [] 0
  obtain ⟨e1, e2, e3, e4, e5, -⟩ := witness_keyedChannel goodKey goodKey (List.replicate (Config.maxLenSlack + 1) 0) [] 0
  exact ⟨⟨_, _, _, _, _, _, h1, h2, h3, h4, h5, by simp [Config.maxLen], List.length_replicate .., goodKey_ok, goodKey_ok⟩,
    ⟨_, _, _, _, _, _, g1, g2, g3, g4, g5, by simp [Config.maxLen], by simp, goodKey_ok, badKey_bad⟩,
    ⟨_, _, _, _, _, _, f1, f2, f3, f4, f5, by simp [Config.maxLen], by simp, badKey_bad⟩,
    ⟨_, _, _, _, _, _, e1, e2, e3, e4, e5, by simp [Config.maxLen]⟩⟩

theorem witness_OpenReleasesThePlaintextOnlyOnAMatch :
    (∃ (s : State) (ch : Channel) (kc km input : Bytes) (ad : List Bytes), Ready s ch ∧ ch.ctrkey = some kc ∧
      ch.mackey = some km ∧ ch.a = some input ∧ ch.ad = some ad ∧ input.length = 16 ∧ Config.keyOk kc.length = true ∧
      ad.length = 126 ∧ Config.keyOk km.length = true) ∧
    (∃ (s : State) (ch : Channel) (kc km input : Bytes) (ad : List Bytes), Ready s ch ∧ ch.ctrkey = some kc ∧
      ch.mackey = some km ∧ ch.a = some input ∧ ch.ad = some ad ∧ input.length = 16 ∧ Config.keyOk kc.length = true ∧
      ad.length = 126 ∧ Config.keyOk km.length = false) ∧
    (∃ (s : State) (ch : Channel) (kc km input : Bytes) (ad : List Bytes), Ready s ch ∧ ch.ctrkey = some kc ∧
      ch.mackey = some km ∧ ch.a = some input ∧ ch.ad = some ad ∧ input.length = 16 ∧ Config.keyOk kc.length = true ∧
      ad.length = 127) ∧
    (∃ (s : State) (ch : Channel) (kc km input : Bytes) (ad : List Bytes), Ready s ch ∧ ch.ctrkey = some kc ∧
      ch.mackey = some km ∧ ch.a = some input ∧ ch.ad = some ad ∧ input.length = 16 ∧ Config.keyOk kc.length = false) ∧
    (∃ (s : State) (ch : Channel) (kc km input : Bytes) (ad : List Bytes), Ready s ch ∧ ch.ctrkey = some kc ∧
      ch.mackey = some km ∧ ch.a = some input ∧ ch.ad = some ad ∧ input.length = 15) := by
  obtain ⟨h1, h2, h3, h4, h5, -⟩ := witness_keyedChannel goodKey goodKey (hexBytes 16 0) (List.replicate 126 []) 0
  obtain ⟨g1, g2, g3, g4, g5, -⟩ := witness_keyedChannel goodKey badKey (hexBytes 16 0) (List.replicate 126 []) 0
  obtain ⟨f1, f2, f3, f4, f5, -⟩ := witness_keyedChannel goodKey goodKey (hexBytes 16 0) (List.replicate 127 []) 0
  obtain ⟨e1, e2, e3, e4, e5, -⟩ := witness_keyedChannel badKey goodKey (hexBytes 16 0) [] 0
  obtain ⟨d1, d2, d3, d4, d5, -⟩ := witness_keyedChannel goodKey goodKey (hexBytes 15 0) [] 0
  exact ⟨⟨_, _, _, _, _, _, h1, h2, h3, h4, h5, by decide, goodKey_ok, List.length_replicate .., goodKey_ok⟩,
    ⟨_, _, _, _, _, _, g1, g2, g3, g4, g5, by decide, goodKey_ok, List.length_replicate .., badKey_bad⟩,
    ⟨_, _, _, _, _, _, f1, f2, f3, f4, f5, by decide, goodKey_ok, List.length_replicate ..⟩,
    ⟨_, _, _, _, _, _, e1, e2, e3, e4, e5, by decide, badKey_bad⟩,
    ⟨_, _, _, _, _, _, d1, d2, d3, d4, d5, by decide⟩⟩

/-- Each command's ports and no others, with each key rejected alone; OPEN with a rejected CTR key and 127 elements too. -/
theorem witness_RejectedKeyLeavesTheCipherInstance :
    (∃ (s : State) (ch : Channel) (kc iv : Bytes) (nb : BitVec 32), Ready s ch ∧ ch.mackey = none ∧ ch.ctrkey = some kc ∧
      ch.a = some iv ∧ ch.nb = some nb ∧ iv.length = 16 ∧ nb.toNat * 16 ≤ Config.maxLen ∧ Config.keyOk kc.length = false) ∧
    (∃ (s : State) (ch : Channel) (km pt : Bytes) (ad : List Bytes), Ready s ch ∧ ch.ctrkey = none ∧ ch.mackey = some km ∧
      ch.a = some pt ∧ ch.ad = some ad ∧ ad.length ≤ 126 ∧ Config.keyOk km.length = false) ∧
    ([] : Bytes).length + 16 ≤ Config.maxLen ∧ (hexBytes 16 0).length ≥ 16 ∧ (List.replicate 126 ([] : Bytes)).length ≤ 126 ∧
    (List.replicate 127 ([] : Bytes)).length = 127 ∧ Config.keyOk goodKey.length = true ∧ Config.keyOk badKey.length = false ∧
    ∀ ctr mac x ads, Ready (one (withAll ctr mac x ads 0)) (withAll ctr mac x ads 0) :=
  ⟨⟨_, _, _, _, _, ready_one (ch := { Channel.reset with ctrkey := some badKey, a := some (hexBytes 16 0), nb := some 1 }) rfl,
      rfl, rfl, rfl, rfl, by decide, by simp [Config.maxLen], badKey_bad⟩,
    ⟨_, _, _, _, _, ready_one (ch := { Channel.reset with mackey := some badKey, a := some [], ad := some [] }) rfl,
      rfl, rfl, rfl, rfl, by decide, badKey_bad⟩,
    by simp [Config.maxLen], by decide, by simp, by simp, goodKey_ok, badKey_bad, fun _ _ _ _ => ready_one rfl⟩

theorem witness_SealThenOpenGivesThePlaintextBack :
    ∃ (s : State) (ch : Channel) (kc km pt : Bytes) (ad : List Bytes), Ready s ch ∧ ch.ctrkey = some kc ∧
      ch.mackey = some km ∧ ch.a = some pt ∧ ch.ad = some ad ∧ Config.keyOk kc.length = true ∧
      Config.keyOk km.length = true ∧ ad.length ≤ 126 ∧ pt.length + 16 ≤ Config.maxLen := by
  obtain ⟨h1, h2, h3, h4, h5, -⟩ :=
    witness_keyedChannel goodKey goodKey (List.replicate Config.maxLenSlack 0) [hexBytes 3 7, []] 0
  exact ⟨_, _, _, _, _, _, h1, h2, h3, h4, h5, goodKey_ok, goodKey_ok, by decide, by simp [Config.maxLen]⟩

theorem witness_OpenAcceptsExactlyTheSealedStrings :
    sealed.length ≤ aesParams.maxLen ∧ sealSteps aesParams kc km pt [ad] .unkeyed = .done sealed (.keyed kc) := by
  decide +kernel

theorem witness_FlippedMaskedIvBitIsUnauthentic :
    sealSteps aesParams kc km pt [ad] .unkeyed = .done sealed (.keyed kc) ∧ ((8 : Nat) = 8 ∨ (8 : Nat) = 12) ∧
    ((12 : Nat) = 8 ∨ (12 : Nat) = 12) := by
  decide +kernel

theorem witness_BigEndianEncodingRoundTrips : 2 ^ 64 - 1 < 2 ^ 64 ∧ (hexBytes 8 (2 ^ 64 - 1)).length = 8 := by decide

theorem witness_ResetLeavesEverythingUnset : ∃ c ch, State.reset.channel? c = some ch := ⟨0, _, test_reset⟩

theorem witness_ResultsDependOnOperandsAlone :
    Ready (one (withAB [1] [2])) (withAB [1] [2]) ∧
    Ready (one { withAB [1] [2] with out := some [9], status := some .ok, carry := some 1, ci := .keyed [] })
      { withAB [1] [2] with out := some [9], status := some .ok, carry := some 1, ci := .keyed [] } ∧
    ∀ p ∈ portsRead .xor,
      ({ withAB [1] [2] with out := some [9], status := some .ok, carry := some 1, ci := .keyed [] } : Channel).portValue p =
        (withAB [1] [2]).portValue p ∧ (withAB [1] [2]).portValue p ≠ none :=
  ⟨ready_one rfl, ready_one rfl, by decide⟩

theorem witness_ActionsIgnoreOtherChannels :
    (Action.clear 0 2).chan ≠ 1 ∧ ∃ t, perform (.clear 0 2) (two (withA [1]) (withA [2])) = .next t := ⟨by decide, _, rfl⟩

theorem witness_CommandsOnDifferentChannelsCommute :
    (0 : Nat) ≠ 1 ∧ (two (withA [1]) (withA [2])).channel? 0 = some (withA [1]) ∧ (withA [1]).fault = none ∧
    (two (withA [1]) (withA [2])).channel? 1 = some (withA [2]) ∧ (withA [2]).fault = none := ⟨by decide, rfl, rfl, rfl, rfl⟩

/-- A faulted channel beside one that is not: a step on the other channel is a next state. -/
theorem witness_FaultedChannelTakesNoFurtherStep :
    (two { withA [1] with fault := some (.unsetOperand 0 .b) } (withA [2])).channel? 0 =
      some { withA [1] with fault := some (.unsetOperand 0 .b) } ∧
    (∃ act : Action, act.chan = 0) ∧
    ∃ t, step { two { withA [1] with fault := some (.unsetOperand 0 .b) } (withA [2]) with todo := [.clear 1 2] } = .next t :=
  ⟨rfl, ⟨.clear 0 2, rfl⟩, _, rfl⟩

theorem witness_NoStepWritesCfgOk : ∃ t, step (oneDo (withA [1]) (.issue 0 3)) = .next t := ⟨_, rfl⟩

theorem witness_OnlyShl1ChangesTheCarry : ∃ t ch',
    step (oneDo (withA (hexBytes 16 0)) (.issue 0 4)) = .next t ∧
    (oneDo (withA (hexBytes 16 0)) (.issue 0 4)).channel? 0 = some (withA (hexBytes 16 0)) ∧
    t.channel? 0 = some ch' ∧ ch'.carry ≠ (withA (hexBytes 16 0)).carry := ⟨_, _, rfl, rfl, rfl, by decide⟩

theorem witness_OnlyTheHostWritesPorts : ∃ t ch',
    step (oneDo (withA [1]) (.clear 0 2)) = .next t ∧ (oneDo (withA [1]) (.clear 0 2)).channel? 0 = some (withA [1]) ∧
    t.channel? 0 = some ch' ∧ ¬ (withA [1]).samePorts ch' :=
  ⟨_, _, rfl, rfl, rfl, fun h => absurd (h .a) (by decide)⟩

theorem witness_WriteAndClearActOnOnePort :
    (one Channel.reset).channel? 0 = some Channel.reset ∧ Channel.reset.fault = none ∧
    (PortValue.int (2 ^ 32 - 1)).wf Config.maxLen Port.nb.id = true ∧
    (PortValue.bytes (List.replicate Config.maxLen 0)).wf Config.maxLen Port.a.id = true ∧
    (PortValue.list [[], List.replicate Config.maxLen 0]).wf Config.maxLen Port.ad.id = true :=
  ⟨rfl, rfl, by decide, by simp [PortValue.wf, Port.id], by simp [PortValue.wf, Port.id]⟩

/-- One set and one unset result register. -/
theorem witness_ReadReturnsTheResultOrFaults :
    (one (withA [1])).channel? 0 = some (withA [1]) ∧ (withA [1]).fault = none ∧
    (withA [1]).readResult? .carry = some (.bit 1) ∧ (withA [1]).readResult? .status = none := ⟨rfl, rfl, rfl, rfl⟩

theorem witness_CopiesMoveTheResultIntoAPort :
    (one { Channel.reset with out := some [5], ad := some [[1]] }).channel? 0 =
      some { Channel.reset with out := some [5], ad := some [[1]] } ∧ Channel.reset.fault = none := ⟨rfl, rfl⟩

/-- An action that is not well formed (an unassigned id), and one that is and is no CPYAD. -/
theorem witness_OnlyWellFormedActionsAreMoves :
    (Action.clear 0 6).wf (one Channel.reset).channels.length Config.maxLen = false ∧
    (Action.clear 0 5).wf (one Channel.reset).channels.length Config.maxLen = true ∧
    (one Channel.reset).channel? (Action.clear 0 5).chan = some Channel.reset ∧ Channel.reset.fault = none ∧
    (∀ c k, Action.clear 0 5 ≠ .cpyad c k) ∧
    (one { Channel.reset with out := some [5], ad := some [[1]] }).channel? 0 =
      some { Channel.reset with out := some [5], ad := some [[1]] } :=
  ⟨rfl, rfl, rfl, rfl, fun _ _ => nofun, rfl⟩

/-- CPYAD at the end of the list, one past it, and with an unset list (R47). -/
theorem test_cpyad_index :
    (after (perform (.cpyad 0 1) (one { Channel.reset with out := some [5], ad := some [[1]] }))).map (·.ad) =
      some (some [[1], [5]]) ∧
    perform (.cpyad 0 2) (one { Channel.reset with out := some [5], ad := some [[1]] }) = .refused (.cpyadIndex 0 2) ∧
    perform (.cpyad 0 0) (one { Channel.reset with out := some [5] }) = .refused (.cpyadUnsetAd 0) := ⟨rfl, rfl, rfl⟩

theorem witness_CmdIsWriteOnlyAndIssues :
    (one Channel.reset).channel? 0 = some Channel.reset ∧ Channel.reset.fault = none := ⟨rfl, rfl⟩

/-- A host with no action left, and one whose next action is a move. -/
theorem witness_StepAdvancesTheHostIndexByOne :
    (one Channel.reset).todo = [] ∧ (∀ c ch, (one Channel.reset).channel? c = some ch → ch.fault = none) ∧
    (oneDo (withA [1]) (.clear 0 2)).todo = [.clear 0 2] ∧
    ∃ t, step (oneDo (withA [1]) (.clear 0 2)) = .next t :=
  ⟨rfl, State.fault?_eq_none.mp rfl, rfl, _, rfl⟩

theorem witness_StatusReadsAsItsCode :
    (one { Channel.reset with status := some .unauthentic }).channel? 0 =
      some { Channel.reset with status := some .unauthentic } ∧ Channel.reset.fault = none := ⟨rfl, rfl⟩

theorem witness_SealMacroSealsItsOperands : ∃ acts : List Action,
    actionsOf [⟨0, .sealK (.bytes []) (.bytes []) (.bytes [1]) (.list [[2]])⟩] = some acts ∧
    ({ one Channel.reset with todo := acts ++ [.read 0 10] } : State).todo = acts ++ [.read 0 10] ∧
    (one Channel.reset).channel? 0 = some Channel.reset ∧ Channel.reset.fault = none ∧ (one Channel.reset).cfgOk = true ∧
    ([] : Bytes).length ≤ Config.maxLen ∧ ([1] : Bytes).length ≤ Config.maxLen ∧
    ∀ x ∈ [([2] : Bytes)], x.length ≤ Config.maxLen :=
  ⟨_, rfl, rfl, rfl, rfl, rfl, by simp, by simp [Config.maxLen], by simp [Config.maxLen]⟩

/-- A faulted channel with no action left, and one beside a channel on which the run goes on. -/
theorem witness_FaultedStateIsNeverFinal :
    (one { withA [1] with fault := some (.unsetOperand 0 .b) }).channel? 0 =
      some { withA [1] with fault := some (.unsetOperand 0 .b) } ∧
    (one { withA [1] with fault := some (.unsetOperand 0 .b) }).todo = [] ∧
    ∃ t, core.run 1 { two { withA [1] with fault := some (.unsetOperand 0 .b) } (withA [2]) with todo := [.clear 1 2] } =
      .next t := ⟨rfl, rfl, _, rfl⟩

theorem witness_CopyOfAnUnsetResultRecordsTheFault :
    (one { Channel.reset with ad := some [[1]] }).channel? 0 = some { Channel.reset with ad := some [[1]] } ∧
    Channel.reset.fault = none ∧ Channel.reset.out = none ∧ 3 ≤ 3 := ⟨rfl, rfl, rfl, by decide⟩

theorem witness_WipeMacroClearsTheKeyPorts : ∃ acts : List Action,
    actionsOf [⟨0, .wipe⟩] = some acts ∧ ({ one (withA [1]) with todo := acts ++ [] } : State).todo = acts ++ [] ∧
    (one (withA [1])).channel? 0 = some (withA [1]) ∧ (withA [1]).fault = none := ⟨_, rfl, rfl, rfl, rfl⟩

/-- The state after reset meets the invariant, and with an action to perform it takes a step. -/
theorem witness_EveryStepKeepsTheInvariant :
    State.Inv (State.reset.withFetchWord 32 1) ∧ ∃ t, step (State.reset.withFetchWord 32 1) = .next t := by
  constructor
  · refine ⟨by simp [State.withFetchWord, State.reset], rfl, fun c ch h => ?_⟩
    have h' : ch = Channel.reset := by
      simp only [State.channel?, State.withFetchWord, State.reset, List.getElem?_replicate] at h
      split at h <;> simp_all
    subst h'
    constructor <;> simp [Channel.reset]
  · exact ⟨_, rfl⟩

end Sys2Proof.Tests
end

section
/-! The big-endian encoding of a number as bytes, of any width, and its inverse `beNat` (spec/00_scope.md R19, R54). -/

namespace Sys2Proof.Machine

/-- The `n` low base-256 digits of `v`, most significant first: `toBe64` at any width. -/
def bigEndian (n v : Nat) : Bytes := (List.range n).map fun j => BitVec.ofNat 8 (v / 256 ^ (n - 1 - j))

theorem toBe64_eq_bigEndian (v : Nat) : toBe64 v = bigEndian 8 v := rfl

theorem bigEndian_succ (n v : Nat) : bigEndian (n + 1) v = BitVec.ofNat 8 (v / 256 ^ n) :: bigEndian n v := by
  simp [bigEndian, List.range_succ_eq_map, Nat.sub_sub, Nat.add_comm]

@[simp] theorem bigEndian_length (n v : Nat) : (bigEndian n v).length = n := by simp [bigEndian]

/-- Reading an encoding of `n` bytes gives the number modulo `256 ^ n`: one digit more in front is `Nat.mod_pow_succ`. -/
theorem beNat_bigEndian (n v : Nat) : beNat (bigEndian n v) = v % 256 ^ n := by
  induction n with
  | zero => simp [bigEndian, beNat, Nat.mod_one]
  | succ n ih =>
    rw [bigEndian_succ, beNat_cons, bigEndian_length, ih, BitVec.toNat_ofNat, Nat.mod_pow_succ (b := 256), Nat.mul_comm, Nat.add_comm]

/-- The first byte is the quotient of the value by `256 ^ length` of the rest. -/
theorem beNat_cons_div (x : Byte) (s : Bytes) : beNat (x :: s) / 256 ^ s.length = x.toNat := by
  rw [beNat_cons, Nat.add_comm, Nat.add_mul_div_right _ _ (by positivity), Nat.div_eq_of_lt (beNat_lt s), Nat.zero_add]

/-- Reading is injective on the strings of one length: the value fixes the first byte, and so the value of the rest. -/
theorem eq_of_beNat_eq {s t : Bytes} (hlen : s.length = t.length) (h : beNat s = beNat t) : s = t := by
  induction s generalizing t with
  | nil => exact (List.length_eq_zero_iff.mp hlen.symm).symm
  | cons x s ih =>
    cases t with
    | nil => cases hlen
    | cons y t =>
      have hlen' : s.length = t.length := by simpa using hlen
      have hhead : x = y := BitVec.eq_of_toNat_eq (by rw [← beNat_cons_div x s, hlen', h, beNat_cons_div])
      have htail : beNat s = beNat t := by simpa [beNat_cons, hhead, hlen'] using h
      rw [hhead, ih hlen' htail]

theorem beNat_toBe64 {v : Nat} (h : v < 2 ^ 64) : beNat (toBe64 v) = v := by
  rw [toBe64_eq_bigEndian, beNat_bigEndian, Nat.mod_eq_of_lt (by omega)]

theorem beNat_lt_of_length_eq_eight {s : Bytes} (h : s.length = 8) : beNat s < 2 ^ 64 := by
  have := beNat_lt s
  rw [h] at this
  omega

/-- `s` and its re-encoding have one length and one value. -/
theorem toBe64_beNat {s : Bytes} (h : s.length = 8) : toBe64 (beNat s) = s :=
  eq_of_beNat_eq (by rw [toBe64_length, h]) (beNat_toBe64 (beNat_lt_of_length_eq_eight h))

/-- Settles O30: an encoding reads back modulo `256 ^ 8`, and reading is injective on 8 bytes. -/
theorem bigEndianEncodingRoundTrips : Obligations.BigEndianEncodingRoundTrips := by
  unfold Obligations.BigEndianEncodingRoundTrips
  exact ⟨fun v hv => ⟨toBe64_length v, beNat_toBe64 hv⟩,
    fun s hs => ⟨beNat_lt_of_length_eq_eight hs, toBe64_beNat hs⟩⟩

end Sys2Proof.Machine
end

section
/-! What a port holds after each operation, and what the register map names (spec/10_state.md R31, R39, R47). -/

namespace Sys2Proof.Machine

/-! ### The register map -/

@[simp] theorem register?_portId (p : Port) : register? p.id = some (.port p) := by cases p <;> rfl

@[simp] theorem register?_resultId (r : ResultReg) : register? r.id = some (.result r) := by cases r <;> rfl

/-- The ids of the ports are the only ones that name a port. -/
theorem eq_id_of_register?_port {id : Nat} {p : Port} (h : register? id = some (.port p)) : id = p.id := by
  unfold register? at h
  split at h <;> cases h <;> rfl

/-- The ids of the result registers are the only ones that name a result register. -/
theorem eq_id_of_register?_result {id : Nat} {r : ResultReg} (h : register? id = some (.result r)) : id = r.id := by
  unfold register? at h
  split at h <;> cases h <;> rfl

theorem Port.id_le (p : Port) : p.id ≤ 5 := by cases p <;> decide

theorem Port.id_ne_cmd (p : Port) : p.id ≠ 12 := by cases p <;> decide

theorem Port.exists_id {id : Nat} (h : id ≤ 5) : ∃ p : Port, p.id = id := by
  match id, h with
  | 0, _ => exact ⟨.ctrkey, rfl⟩
  | 1, _ => exact ⟨.mackey, rfl⟩
  | 2, _ => exact ⟨.a, rfl⟩
  | 3, _ => exact ⟨.b, rfl⟩
  | 4, _ => exact ⟨.ad, rfl⟩
  | 5, _ => exact ⟨.nb, rfl⟩

theorem ResultReg.id_mem (r : ResultReg) : 8 ≤ r.id ∧ r.id ≤ 10 := by cases r <;> decide

theorem ResultReg.exists_id {id : Nat} (h₁ : 8 ≤ id) (h₂ : id ≤ 10) : ∃ r : ResultReg, r.id = id := by
  obtain rfl | rfl | rfl : id = 8 ∨ id = 9 ∨ id = 10 := by omega
  · exact ⟨.out, rfl⟩
  · exact ⟨.carry, rfl⟩
  · exact ⟨.status, rfl⟩

/-! ### Ports -/

/-- `ch'` is `ch` with port `p` holding `v`, or unset where `v` is none, and everything else of the channel as before. -/
structure Channel.PortUpdate (ch ch' : Channel) (p : Port) (v : Option PortValue) : Prop where
  port : ch'.portValue p = v
  others : ∀ q, q ≠ p → ch'.portValue q = ch.portValue q
  results : ∀ r, ch'.readResult? r = ch.readResult? r
  out : ch'.out = ch.out
  status : ch'.status = ch.status
  carry : ch'.carry = ch.carry
  ci : ch'.ci = ch.ci
  fault : ch'.fault = ch.fault

/-- A channel whose results, cipher and fault are those of `ch` is an update of the one port in which they differ. -/
theorem Channel.PortUpdate.of_others {ch ch' : Channel} {p : Port} {v : Option PortValue} (hp : ch'.portValue p = v)
    (hq : ∀ q, q ≠ p → ch'.portValue q = ch.portValue q) (ho : ch'.out = ch.out) (hs : ch'.status = ch.status)
    (hc : ch'.carry = ch.carry) (hi : ch'.ci = ch.ci) (hf : ch'.fault = ch.fault) : ch.PortUpdate ch' p v where
  port := hp
  others := hq
  results r := by cases r <;> simp [readResult?, ho, hs, hc]
  out := ho
  status := hs
  carry := hc
  ci := hi
  fault := hf

theorem Channel.portUpdate_ctrkey (ch : Channel) (x : Option Bytes) :
    ch.PortUpdate { ch with ctrkey := x } .ctrkey (x.map .bytes) :=
  .of_others rfl (by rintro ⟨⟩ h <;> trivial) rfl rfl rfl rfl rfl

theorem Channel.portUpdate_mackey (ch : Channel) (x : Option Bytes) :
    ch.PortUpdate { ch with mackey := x } .mackey (x.map .bytes) :=
  .of_others rfl (by rintro ⟨⟩ h <;> trivial) rfl rfl rfl rfl rfl

theorem Channel.portUpdate_a (ch : Channel) (x : Option Bytes) : ch.PortUpdate { ch with a := x } .a (x.map .bytes) :=
  .of_others rfl (by rintro ⟨⟩ h <;> trivial) rfl rfl rfl rfl rfl

theorem Channel.portUpdate_b (ch : Channel) (x : Option Bytes) : ch.PortUpdate { ch with b := x } .b (x.map .bytes) :=
  .of_others rfl (by rintro ⟨⟩ h <;> trivial) rfl rfl rfl rfl rfl

theorem Channel.portUpdate_ad (ch : Channel) (x : Option (List Bytes)) :
    ch.PortUpdate { ch with ad := x } .ad (x.map .list) :=
  .of_others rfl (by rintro ⟨⟩ h <;> trivial) rfl rfl rfl rfl rfl

theorem Channel.portUpdate_nb (ch : Channel) (x : Option (BitVec 32)) :
    ch.PortUpdate { ch with nb := x } .nb (x.map fun n => .int n.toNat) :=
  .of_others rfl (by rintro ⟨⟩ h <;> trivial) rfl rfl rfl rfl rfl

/-- A WRITE succeeds exactly on the values of the port's domain (R31). -/
theorem Channel.writePort?_isSome_iff (n : Nat) (ch : Channel) (p : Port) (v : PortValue) :
    (ch.writePort? n p v).isSome = true ↔ v.wf n p.id = true := by
  cases p <;> cases v <;> simp [writePort?, PortValue.wf, Port.id, apply_ite Option.isSome]

/-- A written port holds the value as written; `P_NB` keeps a number below `2^32` as it is. -/
theorem Channel.writePort?_portUpdate {n : Nat} {ch ch' : Channel} {p : Port} {v : PortValue}
    (h : ch.writePort? n p v = some ch') : ch.PortUpdate ch' p (some v) := by
  unfold writePort? at h
  split at h <;> simp only [Option.ite_none_right_eq_some, Option.some.injEq, reduceCtorEq] at h <;> obtain ⟨hdom, rfl⟩ := h
  · exact ch.portUpdate_ctrkey _
  · exact ch.portUpdate_mackey _
  · exact ch.portUpdate_a _
  · exact ch.portUpdate_b _
  · exact ch.portUpdate_ad _
  · rename_i m
    have hval : (BitVec.ofNat 32 m).toNat = m := Nat.mod_eq_of_lt hdom
    simpa only [Option.map_some, hval] using ch.portUpdate_nb (some (BitVec.ofNat 32 m))

/-- A cleared port is unset. -/
theorem Channel.clearPort_portUpdate (ch : Channel) (p : Port) : ch.PortUpdate (ch.clearPort p) p none := by
  cases p
  · exact ch.portUpdate_ctrkey none
  · exact ch.portUpdate_mackey none
  · exact ch.portUpdate_a none
  · exact ch.portUpdate_b none
  · exact ch.portUpdate_ad none
  · exact ch.portUpdate_nb none

/-- A CPY goes to the ports 0 to 3 (R47), whatever the bytes. -/
theorem Channel.copyTo?_isSome (ch : Channel) (p : Port) (v : Bytes) : (ch.copyTo? p v).isSome = decide (p.id ≤ 3) := by
  cases p <;> rfl

/-- The port named by a CPY holds the bytes copied. -/
theorem Channel.copyTo?_portUpdate {ch ch' : Channel} {p : Port} {v : Bytes} (h : ch.copyTo? p v = some ch') :
    ch.PortUpdate ch' p (some (.bytes v)) := by
  cases p <;> cases h
  · exact ch.portUpdate_ctrkey _
  · exact ch.portUpdate_mackey _
  · exact ch.portUpdate_a _
  · exact ch.portUpdate_b _

end Sys2Proof.Machine
end

section
/-! What a command leaves of the channel it runs on (spec/10_state.md R31, R35, R38). -/

namespace Sys2Proof.Machine

@[simp] theorem Channel.finish_portValue (ch : Channel) (e : Ending) (p : Port) :
    (ch.finish e).portValue p = ch.portValue p := by
  cases p <;> simp [portValue]

@[simp] theorem Channel.raise_portValue (ch : Channel) (k : Status) (p : Port) :
    (ch.raise k).portValue p = ch.portValue p := by
  cases p <;> rfl

@[simp] theorem Channel.recordFault_portValue (ch : Channel) (f : Fault) (p : Port) :
    (ch.recordFault f).portValue p = ch.portValue p := by
  cases p <;> rfl

@[simp] theorem shl1Steps_portValue (ch : Channel) (blk : Bytes) (p : Port) :
    (shl1Steps ch blk).portValue p = ch.portValue p := by
  unfold shl1Steps
  split
  · exact ch.raise_portValue _ p
  · cases p <;> rfl

/-- Every command finds one of its ports unset and records the fault, or finds them all set. -/
theorem commandOn_unset_or_set (i : Instr) (c : Nat) (ch : Channel) :
    (∃ p, commandOn i c ch = ch.recordFault (.unsetOperand c p)) ∨ ∀ p ∈ portsRead i, ch.portValue p ≠ none := by
  cases h : (portsRead i).find? fun q => (ch.portValue q).isNone with
  | some p => exact .inl ⟨p, commandOn_unset c h⟩
  | none => exact .inr fun p hp hnone => by simpa [hnone] using List.find?_eq_none.mp h p hp

/-- No command writes a port (R44). -/
theorem commandOn_portValue (i : Instr) (c : Nat) (ch : Channel) (p : Port) :
    (commandOn i c ch).portValue p = ch.portValue p := by
  obtain ⟨q, h⟩ | hset := commandOn_unset_or_set i c ch
  · rw [h, Channel.recordFault_portValue]
  · obtain ⟨e, -, h, -⟩ | ⟨-, a, -, h⟩ := commandOn_set c hset
    · rw [h, Channel.finish_portValue]
    · rw [h, shl1Steps_portValue]

/-- No command but SHL1 writes `R_CARRY` (R38). -/
theorem commandOn_carry {i : Instr} (hi : i ≠ .shl1) (c : Nat) (ch : Channel) : (commandOn i c ch).carry = ch.carry := by
  obtain ⟨q, h⟩ | hset := commandOn_unset_or_set i c ch
  · rw [h, Channel.recordFault_carry]
  · obtain ⟨e, -, h, -⟩ | ⟨hshl, -⟩ := commandOn_set c hset
    · rw [h, Channel.finish_carry]
    · exact absurd hshl hi

/-- An ending writes a status and `R_OUT`, which is empty unless the status is OK. -/
theorem Channel.finish_writes_results (ch : Channel) {e : Ending} (he : ∀ st ci, e = .raised st ci → st ≠ .ok) :
    ∃ st v, (ch.finish e).status = some st ∧ (ch.finish e).out = some v ∧ (st ≠ .ok → v = []) := by
  cases e with
  | raised st ci => exact ⟨st, [], rfl, rfl, fun _ => rfl⟩
  | done v ci => exact ⟨.ok, v, rfl, rfl, fun h => absurd rfl h⟩

/-- SHL1 writes its results; it writes the carry exactly where the status is OK (R137). -/
theorem shl1Steps_writes_results (ch : Channel) (blk : Bytes) :
    ∃ st v, (shl1Steps ch blk).status = some st ∧ (shl1Steps ch blk).out = some v ∧ (st ≠ .ok → v = []) ∧
      (st = .ok → (shl1Steps ch blk).carry ≠ none) ∧ (st ≠ .ok → (shl1Steps ch blk).carry = ch.carry) := by
  unfold shl1Steps
  split
  · exact ⟨.invalidInput, [], rfl, rfl, by simp⟩
  · exact ⟨.ok, _, rfl, rfl, by simp⟩

theorem shl1Steps_fault (ch : Channel) (blk : Bytes) : (shl1Steps ch blk).fault = ch.fault := by
  unfold shl1Steps
  split <;> rfl

/-- Settles O7: a command whose ports are set writes an ending, or is SHL1. -/
theorem everyCommandEndsWithItsResultsWritten : Obligations.EveryCommandEndsWithItsResultsWritten := by
  unfold Obligations.EveryCommandEndsWithItsResultsWritten
  intro i s ch hr hset
  have hports : ch.samePorts (commandOn i s.cur ch) := commandOn_portValue i s.cur ch
  obtain ⟨-, hfault, -⟩ := id hr
  obtain ⟨e, he, h, hi⟩ | ⟨rfl, a, -, h⟩ := commandOn_set s.cur hset
  · obtain ⟨st, v, hst, hv, hfail⟩ := ch.finish_writes_results he
    rw [h] at hports
    exact ⟨ch.finish e, st, v, by rw [exec_of_ready hr, h], hst, hv, hfail,
      ⟨fun hshl => absurd hshl.1 hi, fun _ => ch.finish_carry e⟩, hports, by rw [Channel.finish_fault, hfault]⟩
  · obtain ⟨st, v, hst, hv, hfail, hok, hcarry⟩ := shl1Steps_writes_results ch a
    rw [h] at hports
    exact ⟨shl1Steps ch a, st, v, by rw [exec_of_ready hr, h], hst, hv, hfail,
      ⟨fun hshl => hok hshl.2, fun hshl => hcarry fun hst => hshl ⟨rfl, hst⟩⟩, hports, by rw [shl1Steps_fault, hfault]⟩

end Sys2Proof.Machine
end
section
/-! The moves of the host (spec/10_state.md R34, R47): every next state of a host action, as a relation that the model's
`perform` decides. -/

namespace Sys2Proof.Machine

open Host (Outcome)

/-- The word an action issues, by ISSUE or by a write to `CMD` (R34, R39). -/
def Action.word? : Action → Option Word
  | .issue _ w => some w
  | .write _ id (.int n) => if id = 12 ∧ n < 2 ^ 32 then some (BitVec.ofNat 32 n) else none
  | _ => none

/-- What issuing a word makes of the channel: the configuration check, then the command or `ILLEGAL_COMMAND` (R224, R76). -/
def wordOn (cfgOk : Bool) (w : Word) (c : Nat) (ch : Channel) : Channel :=
  if cfgOk then
    match decode w with
    | .ok i => commandOn i c ch
    | .error _ => ch.raise .illegalCommand
  else ch.raise .configuration

/-- What a host action makes of the channel it names, which has no fault: the channel afterwards and the values read. -/
inductive HostMove (cfgOk : Bool) (ch : Channel) : Action → Channel → List RegValue → Prop where
  | command {act : Action} {w : Word} (h : act.word? = some w) : HostMove cfgOk ch act (wordOn cfgOk w act.chan ch) []
  | write {c : Nat} {p : Port} {v : PortValue} {ch' : Channel} (h : ch.writePort? Config.maxLen p v = some ch') :
      HostMove cfgOk ch (.write c p.id v) ch' []
  | clear (c : Nat) (p : Port) : HostMove cfgOk ch (.clear c p.id) (ch.clearPort p) []
  | read {c : Nat} {r : ResultReg} {v : RegValue} (h : ch.readResult? r = some v) : HostMove cfgOk ch (.read c r.id) ch [v]
  | readUnset {c : Nat} {r : ResultReg} (h : ch.readResult? r = none) :
      HostMove cfgOk ch (.read c r.id) (ch.recordFault (.unsetResult c r)) []
  | cpy {c : Nat} {p : Port} {v : Bytes} {ch' : Channel} (ho : ch.out = some v) (h : ch.copyTo? p v = some ch') :
      HostMove cfgOk ch (.cpy c p.id) ch' []
  | cpyUnset {c : Nat} {p : Port} (ho : ch.out = none) (hp : p.id ≤ 3) :
      HostMove cfgOk ch (.cpy c p.id) (ch.recordFault (.unsetResult c .out)) []
  | cpyad {c : Nat} {l : List Bytes} {v : Bytes} (hl : ch.ad = some l) (ho : ch.out = some v) :
      HostMove cfgOk ch (.cpyad c l.length) { ch with ad := some (l ++ [v]) } []
  | cpyadUnset {c : Nat} {l : List Bytes} (hl : ch.ad = some l) (ho : ch.out = none) :
      HostMove cfgOk ch (.cpyad c l.length) (ch.recordFault (.unsetResult c .out)) []

/-- The state after a move: the channel replaced, the values read handed to the host, and the channel a command was issued on
the current one. -/
def State.afterMove (s : State) (act : Action) (ch' : Channel) (rs : List RegValue) : State :=
  { s.setChannel act.chan ch' with cur := if act.word?.isSome then act.chan else s.cur, reads := s.reads ++ rs }

theorem State.afterMove_eq_setChannel (s : State) {act : Action} (h : act.word? = none) (ch' : Channel) :
    s.afterMove act ch' [] = s.setChannel act.chan ch' := by
  simp [afterMove, h, setChannel]

theorem State.channel?_afterMove_self (s : State) {act : Action} {ch : Channel} (h : s.channel? act.chan = some ch)
    (ch' : Channel) (rs : List RegValue) : (s.afterMove act ch' rs).channel? act.chan = some ch' :=
  channel?_setChannel_self h ch'

theorem State.channel?_afterMove_ne (s : State) {act : Action} {d : Nat} (h : act.chan ≠ d) (ch' : Channel)
    (rs : List RegValue) : (s.afterMove act ch' rs).channel? d = s.channel? d :=
  s.channel?_setChannel_ne h ch'

/-! ### Issuing a word -/

theorem word?_eq_some {act : Action} {w : Word} (h : act.word? = some w) :
    act = .issue act.chan w ∨ act = .write act.chan 12 (.int w.toNat) := by
  unfold Action.word? at h
  split at h
  · cases h
    exact .inl rfl
  · simp only [Option.ite_none_right_eq_some, Option.some.injEq] at h
    obtain ⟨⟨rfl, hn⟩, rfl⟩ := h
    exact .inr (by rw [BitVec.toNat_ofNat, Nat.mod_eq_of_lt hn, Action.chan])
  · cases h

theorem word?_write_cmd (c : Nat) (w : Word) : (Action.write c 12 (.int w.toNat)).word? = some w := by
  simp [Action.word?, w.isLt]

@[simp] theorem word?_write_port (c : Nat) (p : Port) (v : PortValue) : (Action.write c p.id v).word? = none := by
  cases v <;> simp [Action.word?, p.id_ne_cmd]

/-- An action that issues a word is its ISSUE (R34). -/
theorem perform_of_word? {act : Action} {w : Word} (h : act.word? = some w) (s : State) :
    perform act s = issue act.chan w s := by
  obtain h | h := word?_eq_some h <;> rw [h]
  · rfl
  · simp [perform, writeOrIssue, register?, w.isLt, Action.chan]

/-- Any other write is a WRITE of a port. -/
theorem perform_write_of_word?_none {c id : Nat} {v : PortValue} (h : (Action.write c id v).word? = none) (s : State) :
    perform (.write c id v) s = doWrite c id v s := by
  simp only [perform, writeOrIssue]
  split
  · rename_i n hreg
    have hn : 2 ^ 32 ≤ n := by simpa [Action.word?, register?_eq_cmd hreg] using h
    rw [if_neg (Nat.not_lt.mpr hn)]
  · rfl

/-- An ISSUE on a channel without a fault. -/
theorem issue_of_ready {s : State} {c : Nat} {ch : Channel} (h : s.channel? c = some ch) (hf : ch.fault = none) (w : Word) :
    issue c w s = .next ({ s with cur := c }.setChannel c (wordOn s.cfgOk w c ch)) := by
  have h' : ({ s with cur := c } : State).channel? c = some ch := h
  rw [issue_eq_runCommand]
  refine (onChannel_of_ready h' hf).trans ?_
  unfold wordOn
  cases s.cfgOk <;> cases decode w <;> rfl

/-! ### The relation and the model -/

/-- Every move answers the next state it describes. -/
theorem perform_of_move {s : State} {act : Action} {ch ch' : Channel} {rs : List RegValue}
    (h : s.channel? act.chan = some ch) (hf : ch.fault = none) (hm : HostMove s.cfgOk ch act ch' rs) :
    perform act s = .next (s.afterMove act ch' rs) := by
  cases hm with
  | command hw =>
    rw [perform_of_word? hw, issue_of_ready h hf]
    simp [State.afterMove, hw, State.setChannel]
  | write hw =>
    rw [State.afterMove_eq_setChannel s (word?_write_port ..), perform_write_of_word?_none (word?_write_port ..)]
    refine (onChannel_of_ready h hf).trans ?_
    simp [hw, Action.chan]
  | clear c p =>
    rw [State.afterMove_eq_setChannel s rfl]
    refine (onChannel_of_ready h hf).trans ?_
    simp [Action.chan]
  | read hr =>
    refine (onChannel_of_ready h hf).trans ?_
    simp [hr, State.afterMove, State.setChannel_same h, Action.word?]
  | readUnset hr =>
    rw [State.afterMove_eq_setChannel s rfl]
    refine (onChannel_of_ready h hf).trans ?_
    simp [hr, Action.chan]
  | cpy ho hc =>
    rw [State.afterMove_eq_setChannel s rfl]
    refine (onChannel_of_ready h hf).trans ?_
    simp [ho, hc, Action.chan]
  | @cpyUnset _ p ho hp =>
    rw [State.afterMove_eq_setChannel s rfl]
    refine (onChannel_of_ready h hf).trans ?_
    obtain ⟨x, hx⟩ := Option.isSome_iff_exists.mp ((ch.copyTo?_isSome p []).trans (decide_eq_true hp))
    simp [ho, hx, Action.chan]
  | cpyad hl ho =>
    rw [State.afterMove_eq_setChannel s rfl]
    refine (onChannel_of_ready h hf).trans ?_
    simp [hl, ho, Action.chan]
  | cpyadUnset hl ho =>
    rw [State.afterMove_eq_setChannel s rfl]
    refine (onChannel_of_ready h hf).trans ?_
    simp [hl, ho, Action.chan]

/-- The action has a move on the channel it names, and `t` is the state after it. -/
def MovesTo (s : State) (act : Action) (t : State) : Prop :=
  ∃ ch ch' rs, s.channel? act.chan = some ch ∧ ch.fault = none ∧ HostMove s.cfgOk ch act ch' rs ∧ t = s.afterMove act ch' rs

/-- An action that issues no word and answers with a channel replaced. -/
theorem MovesTo.of_setChannel {s t : State} {act : Action} {ch ch' : Channel} (hw : act.word? = none)
    (h : s.channel? act.chan = some ch) (hf : ch.fault = none) (hm : HostMove s.cfgOk ch act ch' [])
    (ht : Outcome.next (φ := Fault) (ρ := Refusal) (s.setChannel act.chan ch') = .next t) : MovesTo s act t := by
  cases ht
  exact ⟨ch, ch', [], h, hf, hm, (s.afterMove_eq_setChannel hw ch').symm⟩

theorem movesTo_of_issue {s t : State} {act : Action} {w : Word} (hw : act.word? = some w)
    (h : issue act.chan w s = .next t) : MovesTo s act t := by
  obtain ⟨-, -, -, ch, -, hch, hf, -⟩ := issue_next h
  have hnext := perform_of_move hch hf (.command hw)
  rw [perform_of_word? hw, h] at hnext
  exact ⟨ch, _, [], hch, hf, .command hw, Outcome.next.inj hnext⟩

theorem movesTo_of_doWrite {s t : State} {c id : Nat} {v : PortValue} (hw : (Action.write c id v).word? = none)
    (hdo : doWrite c id v s = .next t) : MovesTo s (.write c id v) t := by
  obtain ⟨ch, hch, hf, h⟩ := onChannel_next hdo
  split at h
  case h_1 p hreg =>
    obtain rfl := eq_id_of_register?_port hreg
    split at h
    · exact .of_setChannel hw hch hf (.write ‹_›) h
    · cases h
  all_goals cases h

theorem movesTo_of_doClear {s t : State} {c id : Nat} (hdo : doClear c id s = .next t) : MovesTo s (.clear c id) t := by
  obtain ⟨ch, hch, hf, h⟩ := onChannel_next hdo
  split at h
  case h_1 p hreg =>
    obtain rfl := eq_id_of_register?_port hreg
    exact .of_setChannel rfl hch hf (.clear c p) h
  all_goals cases h

theorem movesTo_of_doRead {s t : State} {c id : Nat} (hdo : doRead c id s = .next t) : MovesTo s (.read c id) t := by
  obtain ⟨ch, hch, hf, h⟩ := onChannel_next hdo
  split at h
  case h_1 r hreg =>
    obtain rfl := eq_id_of_register?_result hreg
    split at h
    · cases h
      exact ⟨ch, ch, _, hch, hf, .read ‹_›, by simp [State.afterMove, State.setChannel_same hch, Action.word?, Action.chan]⟩
    · exact .of_setChannel rfl hch hf (.readUnset ‹_›) h
  all_goals cases h

theorem movesTo_of_doCpy {s t : State} {c id : Nat} (hdo : doCpy c id s = .next t) : MovesTo s (.cpy c id) t := by
  obtain ⟨ch, hch, hf, h⟩ := onChannel_next hdo
  split at h
  case h_1 p hreg =>
    obtain rfl := eq_id_of_register?_port hreg
    split at h
    · cases h
    · rename_i ch' hcopy ho
      have hp : p.id ≤ 3 := by simpa [hcopy] using (ch.copyTo?_isSome p (ch.out.getD [])).symm
      exact .of_setChannel rfl hch hf (.cpyUnset ho hp) h
    · rename_i ch' v hcopy ho
      exact .of_setChannel rfl hch hf (.cpy ho (by simpa [ho] using hcopy)) h
  all_goals cases h

theorem movesTo_of_doCpyad {s t : State} {c k : Nat} (hdo : doCpyad c k s = .next t) : MovesTo s (.cpyad c k) t := by
  obtain ⟨ch, hch, hf, h⟩ := onChannel_next hdo
  split at h
  · cases h
  · rename_i l hl
    split at h
    · rename_i hk
      subst hk
      split at h
      · exact .of_setChannel rfl hch hf (.cpyadUnset hl ‹_›) h
      · exact .of_setChannel rfl hch hf (.cpyad hl ‹_›) h
    · cases h

/-- The next states of a host action are exactly those of its moves. -/
theorem perform_eq_next_iff {s t : State} {act : Action} : perform act s = .next t ↔ MovesTo s act t := by
  constructor
  · intro h
    cases hw : act.word? with
    | some w => exact movesTo_of_issue hw (perform_of_word? hw s ▸ h)
    | none =>
      cases act with
      | write c id v => exact movesTo_of_doWrite hw (perform_write_of_word?_none hw s ▸ h)
      | clear c id => exact movesTo_of_doClear h
      | issue c w => cases hw
      | read c id => exact movesTo_of_doRead h
      | cpy c id => exact movesTo_of_doCpy h
      | cpyad c k => exact movesTo_of_doCpyad h
  · rintro ⟨ch, ch', rs, hch, hf, hm, rfl⟩
    exact perform_of_move hch hf hm

end Sys2Proof.Machine
end
section
/-! The invariant of the machine (spec/10_state.md R30 to R41): it holds after reset and every step keeps it. -/

namespace Sys2Proof.Machine

/-! ### Commands -/

/-- The cipher holds an accepted key, or none (R102). -/
def CipherInst.Accepted (ci : CipherInst) : Prop := ∀ k, ci = .keyed k → Config.keyOk k.length = true

/-- An ending on a configured block: a failure has a failure's code, which is not `CONFIGURATION`, a result has at most `n`
bytes, and the cipher holds an accepted key. -/
def Ending.Sound (n : Nat) : Ending → Prop
  | .raised st ci => st ≠ .ok ∧ st ≠ .configuration ∧ ci.Accepted
  | .done v ci => v.length ≤ n ∧ ci.Accepted

theorem Ending.Sound.mono {m n : Nat} {e : Ending} (h : e.Sound m) (hmn : m ≤ n) : e.Sound n := by
  cases e with
  | raised st ci => exact h
  | done v ci => exact ⟨h.1.trans hmn, h.2⟩

theorem Ending.Sound.andThen {m n : Nat} {e : Ending} {k : Bytes → CipherInst → Ending} (h : e.Sound m)
    (hk : ∀ v ci, v.length ≤ m → ci.Accepted → (k v ci).Sound n) : (e.andThen k).Sound n := by
  cases e with
  | raised st ci => exact h
  | done v ci => exact hk v ci h.1 h.2

/-- A check that raises before the steps that follow it. -/
theorem Ending.Sound.ite_raised {n : Nat} {q : Prop} [Decidable q] {st : Status} {ci : CipherInst} {e : Ending}
    (hst : st ≠ .ok ∧ st ≠ .configuration) (hci : ci.Accepted) (he : ¬ q → e.Sound n) :
    (if q then .raised st ci else e : Ending).Sound n := by
  split
  · exact ⟨hst.1, hst.2, hci⟩
  · exact he ‹_›

theorem rekey_sound {n : Nat} {k : Bytes} {ci : CipherInst} {steps : CipherInst → Ending} (hci : ci.Accepted)
    (h : ∀ ci', ci'.Accepted → (steps ci').Sound n) : (rekey attached k ci steps).Sound n := by
  cases hk : Config.keyOk k.length with
  | true =>
    rw [rekey_accepted hk]
    exact h _ fun k' hk' => by cases hk'; exact hk
  | false =>
    rw [rekey_rejected hk]
    exact ⟨by decide, by decide, hci⟩

theorem xorBytes_length_le (a b : Bytes) : (xorBytes a b).length ≤ a.length := by
  simp [xorBytes]

section
variable {ci : CipherInst} (hci : ci.Accepted)
include hci

theorem xorSteps_sound (a b : Bytes) : (xorSteps a b ci).Sound a.length :=
  .ite_raised (by decide) hci fun _ => ⟨xorBytes_length_le a b, hci⟩

theorem xorendSteps_sound (a b : Bytes) : (xorendSteps a b ci).Sound a.length :=
  .ite_raised (by decide) hci fun h => ⟨(xorEnd_length (Nat.not_lt.mp h)).le, hci⟩

theorem padSteps_sound (a : Bytes) : (padSteps a ci).Sound 16 :=
  .ite_raised (by decide) hci fun h => ⟨(padBlock_length (Nat.not_le.mp h)).le, hci⟩

theorem dblSteps_sound (a : Bytes) : (dblSteps a ci).Sound a.length :=
  .ite_raised (by decide) hci fun _ => ⟨(dblBlock_length a).le, hci⟩

theorem cteqSteps_sound (a b : Bytes) : (cteqSteps a b ci).Sound 1 :=
  .ite_raised (by decide) hci fun _ => ⟨le_rfl, hci⟩

theorem s2vPhase_sound (km pt : Bytes) (ad : List Bytes) : (s2vPhase attached km pt ad ci).Sound 16 :=
  .ite_raised (by decide) hci fun _ => rekey_sound hci fun _ hci' => ⟨(s2vTag_length ..).le, hci'⟩

theorem ctrPhase_sound (kc iv : Bytes) (nb : Nat) : (ctrPhase attached kc iv nb ci).Sound (16 * nb) :=
  rekey_sound hci fun _ hci' => ⟨(ctrKeystream_length (encUnder_length attached kc) iv nb).le, hci'⟩

theorem ctrSteps_sound (kc iv : Bytes) (nb : Nat) : (ctrSteps attached kc iv nb ci).Sound Config.maxLen :=
  .ite_raised (by decide) hci fun _ => .ite_raised (by decide) hci fun hlen =>
    (ctrPhase_sound hci kc iv nb).mono (by rw [attached_maxLen] at hlen; omega)

theorem sealSteps_sound (kc km pt : Bytes) (ad : List Bytes) : (sealSteps attached kc km pt ad ci).Sound Config.maxLen :=
  .ite_raised (by decide) hci fun hlen =>
    (s2vPhase_sound hci km pt ad).andThen fun iv _ hiv hci =>
    (ctrPhase_sound hci kc iv _).andThen fun ks _ _ hci => ⟨by
      have hct := xorBytes_length_le pt ks
      rw [attached_maxLen] at hlen
      rw [List.length_append]
      omega, hci⟩

/-- OPEN gives at most the bytes that follow the tag. -/
theorem openSteps_sound (kc km input : Bytes) (ad : List Bytes) : (openSteps attached kc km input ad ci).Sound input.length :=
  .ite_raised (by decide) hci fun _ =>
    (ctrPhase_sound hci kc _ _).andThen fun ks _ _ hci =>
    (s2vPhase_sound hci km _ ad).andThen fun _ _ _ hci =>
    .ite_raised (by decide) hci fun _ => ⟨(xorBytes_length_le _ ks).trans (by simp), hci⟩

end

/-! ### Channels -/

/-- `MAX_LEN` has room for a block (log entry 2). -/
theorem Config.le_maxLen {n : Nat} (h : n ≤ 16) : n ≤ Config.maxLen := by
  unfold Config.maxLen
  omega

section
variable {cfgOk : Bool} {c : Nat} {ch : Channel}

theorem Channel.Inv.accepted (h : ch.Inv cfgOk c) : ch.ci.Accepted := h.ci_accepted

/-- A command's results, in their domain and under the policy of R35, keep the invariant of a channel without a fault. -/
theorem Channel.Inv.withResults (h : ch.Inv cfgOk c) (hf : ch.fault = none) {v : Bytes} {st : Status} {ci : CipherInst}
    (hlen : v.length ≤ Config.maxLen) (hfail : st ≠ .ok → v = []) (hcfg : st = .configuration ↔ cfgOk = false)
    (hci : ci.Accepted) (cy : Option Bit) :
    Channel.Inv cfgOk c { ch with out := some v, status := some st, ci := ci, carry := cy } where
  ctrkey_len := h.ctrkey_len
  mackey_len := h.mackey_len
  a_len := h.a_len
  b_len := h.b_len
  ad_len := h.ad_len
  out_len := by rintro _ ⟨⟩; exact hlen
  out_status := rfl
  fail_empty := by rintro _ ⟨⟩ hst; exact congrArg some (hfail hst)
  configuration := by rintro _ ⟨⟩; exact hcfg
  ci_accepted := hci
  fault_describes := by simp [hf]

theorem Channel.Inv.raise_configuration (h : ch.Inv false c) (hf : ch.fault = none) :
    (ch.raise .configuration).Inv false c :=
  h.withResults hf (Nat.zero_le _) (fun _ => rfl) (by decide) h.accepted ch.carry

theorem Channel.Inv.raise (h : ch.Inv true c) (hf : ch.fault = none) {st : Status} (hst : st ≠ .configuration) :
    (ch.raise st).Inv true c :=
  h.withResults hf (Nat.zero_le _) (fun _ => rfl) (by simpa using hst) h.accepted ch.carry

theorem Channel.Inv.finish (h : ch.Inv true c) (hf : ch.fault = none) {e : Ending} (he : e.Sound Config.maxLen) :
    (ch.finish e).Inv true c := by
  cases e with
  | raised st ci =>
    obtain ⟨-, hst, hci⟩ := he
    exact h.withResults hf (Nat.zero_le _) (fun _ => rfl) (by simpa using hst) hci ch.carry
  | done v ci => exact h.withResults hf he.1 (fun hst => absurd rfl hst) (by decide) he.2 ch.carry

theorem Channel.Inv.shl1Steps (h : ch.Inv true c) (hf : ch.fault = none) (blk : Bytes) : (shl1Steps ch blk).Inv true c := by
  unfold Machine.shl1Steps
  split
  · exact h.raise hf (by decide)
  · rename_i hlen
    have hout : (shiftLeft1 blk).1.length ≤ Config.maxLen :=
      Config.le_maxLen (by rw [shiftLeft1, shiftBytes_length]; exact (not_not.mp hlen).le)
    exact h.withResults hf hout (fun hst => absurd rfl hst) (by decide) h.accepted _

/-- Recording a fault that is about the channel as it stands. -/
theorem Channel.Inv.recordFault (h : ch.Inv cfgOk c) {f : Fault} (hd : f.describes c ch) : (ch.recordFault f).Inv cfgOk c where
  ctrkey_len := h.ctrkey_len
  mackey_len := h.mackey_len
  a_len := h.a_len
  b_len := h.b_len
  ad_len := h.ad_len
  out_len := h.out_len
  out_status := h.out_status
  fail_empty := h.fail_empty
  configuration := h.configuration
  ci_accepted := h.ci_accepted
  fault_describes := by
    rintro _ ⟨⟩
    cases f with
    | unsetOperand d p => exact ⟨hd.1, by rw [← hd.2]; cases p <;> rfl⟩
    | unsetResult d r => exact ⟨hd.1, by rw [← hd.2]; cases r <;> rfl⟩

/-- An operand check keeps the invariant where the steps that use the value do. -/
theorem Channel.Inv.operand {α : Type} (h : ch.Inv cfgOk c) {p : Port} {v : Option α} {k : α → Channel}
    (hv : ch.isSet p = v.isSome) (hk : ∀ x, v = some x → (k x).Inv cfgOk c) : (operand c ch p v k).Inv cfgOk c := by
  cases v with
  | none => exact h.recordFault ⟨rfl, hv⟩
  | some x => exact hk x rfl

/-- A command on a configured block keeps the invariant of its channel. -/
theorem Channel.Inv.commandOn (h : ch.Inv true c) (hf : ch.fault = none) (i : Instr) : (commandOn i c ch).Inv true c := by
  have hci := h.accepted
  cases i with
  | xor =>
    exact h.operand rfl fun a ha => h.operand rfl fun b _ =>
      h.finish hf ((xorSteps_sound hci a b).mono (h.a_len a ha))
  | xorend =>
    exact h.operand rfl fun a ha => h.operand rfl fun b _ =>
      h.finish hf ((xorendSteps_sound hci a b).mono (h.a_len a ha))
  | pad => exact h.operand rfl fun a _ => h.finish hf ((padSteps_sound hci a).mono (Config.le_maxLen le_rfl))
  | shl1 => exact h.operand rfl fun a _ => h.shl1Steps hf a
  | dbl => exact h.operand rfl fun a ha => h.finish hf ((dblSteps_sound hci a).mono (h.a_len a ha))
  | cteq =>
    exact h.operand rfl fun a _ => h.operand rfl fun b _ =>
      h.finish hf ((cteqSteps_sound hci a b).mono (Config.le_maxLen (by decide)))
  | s2v =>
    exact h.operand rfl fun km _ => h.operand rfl fun pt _ => h.operand rfl fun ad _ =>
      h.finish hf ((s2vPhase_sound hci km pt ad).mono (Config.le_maxLen le_rfl))
  | ctr =>
    exact h.operand rfl fun kc _ => h.operand rfl fun iv _ => h.operand rfl fun nb _ =>
      h.finish hf (ctrSteps_sound hci kc iv nb.toNat)
  | seal_ =>
    exact h.operand rfl fun kc _ => h.operand rfl fun km _ => h.operand rfl fun pt _ => h.operand rfl fun ad _ =>
      h.finish hf (sealSteps_sound hci kc km pt ad)
  | open_ =>
    exact h.operand rfl fun kc _ => h.operand rfl fun km _ => h.operand rfl fun input hin => h.operand rfl fun ad _ =>
      h.finish hf ((openSteps_sound hci kc km input ad).mono (h.a_len input hin))

/-- Issuing any word keeps the invariant of its channel. -/
theorem Channel.Inv.wordOn (h : ch.Inv cfgOk c) (hf : ch.fault = none) (w : Word) : (wordOn cfgOk w c ch).Inv cfgOk c := by
  cases cfgOk with
  | false => exact h.raise_configuration hf
  | true =>
    simp only [Machine.wordOn, if_true]
    split
    · exact h.commandOn hf _
    · exact h.raise hf (by decide)

/-- Every port's value lies in its domain (R31). -/
theorem Channel.Inv.portValue_wf (h : ch.Inv cfgOk c) {p : Port} {x : PortValue} (hx : ch.portValue p = some x) :
    x.wf Config.maxLen p.id = true := by
  cases p <;> obtain ⟨v, hv, rfl⟩ := Option.map_eq_some_iff.mp hx
  · exact decide_eq_true (h.ctrkey_len v hv)
  · exact decide_eq_true (h.mackey_len v hv)
  · exact decide_eq_true (h.a_len v hv)
  · exact decide_eq_true (h.b_len v hv)
  · exact List.all_eq_true.mpr fun y hy => decide_eq_true (h.ad_len v hv y hy)
  · exact decide_eq_true v.isLt

theorem PortValue.wf_bytes {n id : Nat} {x : Bytes} (hid : id ≤ 3) (hx : x.length ≤ n) :
    (PortValue.bytes x).wf n id = true := by
  obtain rfl | rfl | rfl | rfl : id = 0 ∨ id = 1 ∨ id = 2 ∨ id = 3 := by omega
  all_goals exact decide_eq_true hx

/-- Updating a port with a value of its domain keeps the invariant of a channel without a fault. -/
theorem Channel.Inv.portUpdate (h : ch.Inv cfgOk c) (hf : ch.fault = none) {ch' : Channel} {p : Port} {v : Option PortValue}
    (hu : ch.PortUpdate ch' p v) (hv : ∀ x, v = some x → x.wf Config.maxLen p.id = true) : ch'.Inv cfgOk c := by
  have hdom : ∀ q x, ch'.portValue q = some x → x.wf Config.maxLen q.id = true := by
    intro q x hx
    by_cases hq : q = p
    · subst hq
      exact hv x (hu.port ▸ hx)
    · exact h.portValue_wf (hu.others q hq ▸ hx)
  exact {
    ctrkey_len := fun x hx => of_decide_eq_true (hdom .ctrkey (.bytes x) (congrArg (Option.map PortValue.bytes) hx))
    mackey_len := fun x hx => of_decide_eq_true (hdom .mackey (.bytes x) (congrArg (Option.map PortValue.bytes) hx))
    a_len := fun x hx => of_decide_eq_true (hdom .a (.bytes x) (congrArg (Option.map PortValue.bytes) hx))
    b_len := fun x hx => of_decide_eq_true (hdom .b (.bytes x) (congrArg (Option.map PortValue.bytes) hx))
    ad_len := fun l hl y hy =>
      of_decide_eq_true (List.all_eq_true.mp (hdom .ad (.list l) (congrArg (Option.map PortValue.list) hl)) y hy)
    out_len := hu.out ▸ h.out_len
    out_status := by rw [hu.out, hu.status, h.out_status]
    fail_empty := by rw [hu.out, hu.status]; exact h.fail_empty
    configuration := hu.status ▸ h.configuration
    ci_accepted := hu.ci ▸ h.ci_accepted
    fault_describes := by simp [hu.fault, hf] }

/-- Every move of the host keeps the invariant of the channel it names. -/
theorem Channel.Inv.hostMove {act : Action} {ch' : Channel} {rs : List RegValue} (h : ch.Inv cfgOk act.chan)
    (hf : ch.fault = none) (hm : HostMove cfgOk ch act ch' rs) : ch'.Inv cfgOk act.chan := by
  cases hm with
  | command _ => exact h.wordOn hf _
  | write hw =>
    have hdom := (ch.writePort?_isSome_iff _ _ _).mp (Option.isSome_of_eq_some hw)
    exact h.portUpdate hf (Channel.writePort?_portUpdate hw) (by rintro _ ⟨⟩; exact hdom)
  | clear _ p => exact h.portUpdate hf (ch.clearPort_portUpdate p) (by rintro _ ⟨⟩)
  | read _ => exact h
  | readUnset hr => exact h.recordFault ⟨rfl, hr⟩
  | @cpy _ p v _ ho hc =>
    have hid : p.id ≤ 3 := by simpa [hc] using (ch.copyTo?_isSome p v).symm
    refine h.portUpdate hf (Channel.copyTo?_portUpdate hc) ?_
    rintro _ ⟨⟩
    exact PortValue.wf_bytes hid (h.out_len v ho)
  | cpyUnset ho _ => exact h.recordFault ⟨rfl, congrArg (Option.map RegValue.bytes) ho⟩
  | @cpyad _ l v hl ho =>
    refine h.portUpdate hf (ch.portUpdate_ad (some (l ++ [v]))) ?_
    rintro _ ⟨⟩
    refine List.all_eq_true.mpr fun x hx => decide_eq_true ?_
    obtain hx | hx := List.mem_append.mp hx
    · exact h.ad_len l hl x hx
    · exact List.mem_singleton.mp hx ▸ h.out_len v ho
  | cpyadUnset _ ho => exact h.recordFault ⟨rfl, congrArg (Option.map RegValue.bytes) ho⟩

end

/-! ### States -/

/-- Every next state of a host action keeps the invariant. -/
theorem State.Inv.perform {s t : State} (h : s.Inv) {act : Action} (hp : perform act s = .next t) : t.Inv := by
  obtain ⟨ch, ch', rs, hch, hf, hm, rfl⟩ := perform_eq_next_iff.mp hp
  refine ⟨(List.length_set ..).trans h.count, h.cfg, fun d x hx => ?_⟩
  by_cases hd : act.chan = d
  · subst hd
    obtain rfl : ch' = x := Option.some.inj ((s.channel?_afterMove_self hch ch' rs).symm.trans hx)
    exact (h.chans _ _ hch).hostMove hf hm
  · exact h.chans d x ((s.channel?_afterMove_ne hd ch' rs).symm.trans hx)

theorem channel?_reset {c : Nat} {ch : Channel} (h : State.reset.channel? c = some ch) : ch = Channel.reset :=
  List.eq_of_mem_replicate (List.mem_of_getElem? h)

/-- Settles O31: every channel is the reset channel, and `N_CH` is one more than a number. -/
theorem resetLeavesEverythingUnset : Obligations.ResetLeavesEverythingUnset := by
  unfold Obligations.ResetLeavesEverythingUnset
  refine ⟨rfl, List.length_replicate, Nat.succ_pos _, fun c ch h => ?_⟩
  obtain rfl := channel?_reset h
  exact ⟨by rintro ⟨⟩ <;> rfl, by rintro ⟨⟩ <;> rfl, rfl, rfl⟩

theorem Channel.Inv.reset (cfgOk : Bool) (c : Nat) : Channel.reset.Inv cfgOk c := by
  constructor <;> simp [Channel.reset]

/-- Settles O48: every channel is the reset channel. -/
theorem resetSatisfiesTheInvariant : Obligations.ResetSatisfiesTheInvariant := by
  unfold Obligations.ResetSatisfiesTheInvariant
  refine ⟨List.length_replicate, rfl, fun c ch h => ?_⟩
  rw [channel?_reset h]
  exact .reset _ c

/-- Settles O49: a step rests, or performs an action. -/
theorem everyStepKeepsTheInvariant : Obligations.EveryStepKeepsTheInvariant := by
  unfold Obligations.EveryStepKeepsTheInvariant
  intro s t h hstep
  obtain ⟨-, -, rfl⟩ | ⟨act, rest, -, hp⟩ := step_next hstep
  · exact h
  · have h' : State.Inv { s with todo := rest, index := s.index + 1 } := ⟨h.count, h.cfg, h.chans⟩
    exact h'.perform hp

end Sys2Proof.Machine
end
section
/-! What a step and an action leave alone (spec/10_state.md R31, R37, R38, R41, R48). -/

namespace Sys2Proof.Machine

/-- Settles O36: a step rests, or performs an action, which replaces a channel and no more. -/
theorem noStepWritesCfgOk : Obligations.NoStepWritesCfgOk := by
  unfold Obligations.NoStepWritesCfgOk
  intro s t hstep
  obtain ⟨-, -, rfl⟩ | ⟨act, rest, -, hp⟩ := step_next hstep
  · rfl
  · obtain ⟨hcfg, -⟩ := perform_next hp
    exact hcfg

/-- Settles O44: a step takes off the head of the program, and performing an action leaves program and index alone. -/
theorem stepAdvancesTheHostIndexByOne : Obligations.StepAdvancesTheHostIndexByOne := by
  unfold Obligations.StepAdvancesTheHostIndexByOne
  refine fun s => ⟨fun hnil hok => ?_, fun act rest t htodo hstep => ?_⟩
  · have hf : s.fault? = none := State.fault?_eq_none.mpr hok
    simp [step, hostStep, hnil, hf]
  · obtain ⟨hnil, -⟩ | ⟨act', rest', htodo', hp⟩ := step_next hstep
    · cases htodo.symm.trans hnil
    · cases htodo.symm.trans htodo'
      obtain ⟨-, ht, hi, -⟩ := perform_next hp
      exact ⟨ht, hi⟩

/-- Settles O3: taking the action off the program and issuing its word is running its command. -/
theorem stepRunsTheIssuedCommand : Obligations.StepRunsTheIssuedCommand := by
  unfold Obligations.StepRunsTheIssuedCommand
  intro s c w rest i htodo hdec
  simp [step, hostStep, htodo, perform, issue, hdec]

/-! ### Changes of one channel -/

/-- A step in which a channel differs performed a move on that channel. -/
theorem hostMove_of_step_changes {s t : State} {c : Nat} {ch ch' : Channel} (hstep : step s = .next t)
    (h : s.channel? c = some ch) (h' : t.channel? c = some ch') (hne : ch' ≠ ch) :
    ∃ act rest rs, s.todo = act :: rest ∧ act.chan = c ∧ HostMove s.cfgOk ch act ch' rs := by
  obtain ⟨-, -, rfl⟩ | ⟨act, rest, htodo, hp⟩ := step_next hstep
  · exact absurd (Option.some.inj (h'.symm.trans h)) hne
  · obtain ⟨x, x', rs, hx, -, hm, rfl⟩ := perform_eq_next_iff.mp hp
    by_cases hc : act.chan = c
    · subst hc
      cases hx.symm.trans h
      cases (State.channel?_afterMove_self _ hx x' rs).symm.trans h'
      exact ⟨act, rest, rs, htodo, rfl, hm⟩
    · have hsame := (State.channel?_afterMove_ne _ hc x' rs).symm.trans h'
      exact absurd (Option.some.inj (hsame.symm.trans h)) hne

/-- A word that decodes is the word of its command (R72, R75): `RES` is 0 and `OPC` the opcode. -/
theorem eq_encode_of_decode {w : Word} {i : Instr} (h : decode w = .ok i) : w = encode i := by
  have hopc : ∀ o : BitVec 8, ofOpcode? o = some i → o = opcode i := by cases i <;> decide
  unfold decode at h
  split at h
  · rename_i hres
    split at h <;> cases h
    have hlow := hopc w.opc ‹_›
    rw [encode, ← hlow, ← hres, Word.res, Word.opc]
    exact (BitVec.extractLsb'_append_extractLsb' (w := 24) (len := 8)).symm
  · cases h

@[simp] theorem wordOn_portValue (cfgOk : Bool) (w : Word) (c : Nat) (ch : Channel) (p : Port) :
    (wordOn cfgOk w c ch).portValue p = ch.portValue p := by
  unfold wordOn
  split
  · split
    · exact commandOn_portValue _ c ch p
    · exact ch.raise_portValue _ p
  · exact ch.raise_portValue _ p

/-- Only the word of SHL1 writes `R_CARRY`. -/
theorem eq_shl1_of_wordOn_carry {cfgOk : Bool} {w : Word} {c : Nat} {ch : Channel}
    (h : (wordOn cfgOk w c ch).carry ≠ ch.carry) :
    w = 0x00000004 := by
  unfold wordOn at h
  split at h
  · split at h
    · rename_i i hdec
      obtain rfl : i = .shl1 := by
        by_contra hi
        exact h (commandOn_carry hi c ch)
      exact eq_encode_of_decode hdec
    · exact absurd rfl h
  · exact absurd rfl h

/-- A move that changes `R_CARRY` issues SHL1: a port update, a reading and a fault leave it alone. -/
theorem HostMove.word?_of_carry_ne {cfgOk : Bool} {ch ch' : Channel} {act : Action} {rs : List RegValue}
    (hm : HostMove cfgOk ch act ch' rs) (hne : ch'.carry ≠ ch.carry) : act.word? = some 0x00000004 := by
  cases hm with
  | command hw => rw [hw, eq_shl1_of_wordOn_carry hne]
  | write hw => exact absurd (Channel.writePort?_portUpdate hw).carry hne
  | clear _ p => exact absurd (ch.clearPort_portUpdate p).carry hne
  | cpy _ hc => exact absurd (Channel.copyTo?_portUpdate hc).carry hne
  | read | readUnset | cpyUnset | cpyad | cpyadUnset => exact absurd rfl hne

/-- Settles O37: a step that changes a carry performed a move that issues SHL1. -/
theorem onlyShl1ChangesTheCarry : Obligations.OnlyShl1ChangesTheCarry := by
  unfold Obligations.OnlyShl1ChangesTheCarry
  intro s t c ch ch' hstep h h' hne
  obtain ⟨act, rest, rs, htodo, rfl, hm⟩ := hostMove_of_step_changes hstep h h' fun he => hne (by rw [he])
  refine ⟨rest, ?_⟩
  obtain hact | hact := word?_eq_some (hm.word?_of_carry_ne hne)
  · exact .inl (htodo.trans (congrArg (· :: rest) hact))
  · exact .inr (htodo.trans (congrArg (· :: rest) hact))

/-- Settles O38: a command, a reading and a fault leave the ports alone, and the other moves are those named. -/
theorem onlyTheHostWritesPorts : Obligations.OnlyTheHostWritesPorts := by
  unfold Obligations.OnlyTheHostWritesPorts
  intro s t c ch ch' hstep h h' hne
  obtain ⟨act, rest, rs, htodo, rfl, hm⟩ := hostMove_of_step_changes hstep h h' fun he => hne (he ▸ fun _ => rfl)
  refine ⟨rest, ?_⟩
  cases hm with
  | command hw => exact absurd (wordOn_portValue s.cfgOk _ _ ch) hne
  | @write _ p v => exact ⟨p.id, .inl ⟨v, htodo, p.id_le⟩⟩
  | clear _ p => exact ⟨p.id, .inr (.inl htodo)⟩
  | read | readUnset => exact absurd (fun p => by simp) hne
  | cpy | cpyUnset => exact ⟨_, .inr (.inr (.inl htodo))⟩
  | cpyad | cpyadUnset => exact ⟨_, .inr (.inr (.inr htodo))⟩

/-! ### Different channels -/

/-- Settles O33: a move is decided by the channel the action names, and its effect commutes with replacing another. -/
theorem actionsIgnoreOtherChannels : Obligations.ActionsIgnoreOtherChannels := by
  unfold Obligations.ActionsIgnoreOtherChannels
  intro act s t c x hc hp
  obtain ⟨ch, ch', rs, hch, hf, hm, rfl⟩ := perform_eq_next_iff.mp hp
  refine ⟨s.channel?_afterMove_ne hc ch' rs, perform_eq_next_iff.mpr ⟨ch, ch', rs, ?_, hf, hm, ?_⟩⟩
  · rw [s.channel?_setChannel_ne hc.symm, hch]
  · simp [State.afterMove, State.setChannel, List.set_comm _ _ hc]

/-- Settles O34: each issue replaces its own channel, and replacements of different channels commute. -/
theorem commandsOnDifferentChannelsCommute : Obligations.CommandsOnDifferentChannelsCommute := by
  unfold Obligations.CommandsOnDifferentChannelsCommute
  intro s c d w v x y hcd hx hfx hy hfy
  have hy' := (s.channel?_setChannel_ne hcd (wordOn s.cfgOk w c x)).trans hy
  have hx' := (s.channel?_setChannel_ne hcd.symm (wordOn s.cfgOk v d y)).trans hx
  exact ⟨_, _, _, _, issue_of_ready hx hfx w, issue_of_ready hy' hfy v, issue_of_ready hy hfy v, issue_of_ready hx' hfx w,
    List.set_comm _ _ hcd, rfl⟩

end Sys2Proof.Machine
end

section
/-! The host's actions: which of them are moves, and what each does (spec/10_state.md R34, R39, R47). -/

namespace Sys2Proof.Machine

/-! ### What each action does -/

/-- A move that issues no word and reads nothing replaces the channel. -/
theorem perform_of_quiet_move {s : State} {act : Action} {ch ch' : Channel} (h : s.channel? act.chan = some ch)
    (hf : ch.fault = none) (hw : act.word? = none) (hm : HostMove s.cfgOk ch act ch' []) :
    perform act s = .next (s.setChannel act.chan ch') := by
  rw [perform_of_move h hf hm, s.afterMove_eq_setChannel hw]

/-- Settles O39: WRITE and CLEAR are port updates. -/
theorem writeAndClearActOnOnePort : Obligations.WriteAndClearActOnOnePort := by
  unfold Obligations.WriteAndClearActOnOnePort
  intro s c ch p v h hf hv
  obtain ⟨cw, hw⟩ := Option.isSome_iff_exists.mp ((ch.writePort?_isSome_iff _ p v).mpr hv)
  have uw := Channel.writePort?_portUpdate hw
  have uc := ch.clearPort_portUpdate p
  exact ⟨cw, ch.clearPort p, perform_of_quiet_move h hf (word?_write_port c p v) (.write hw),
    perform_of_quiet_move h hf rfl (.clear c p), uw.port, uc.port, fun q hq => ⟨uw.others q hq, uc.others q hq⟩,
    fun r => ⟨uw.results r, uc.results r⟩, uw.ci, uc.ci, uw.fault.trans hf, uc.fault.trans hf⟩

/-- Settles O40: a reading puts the channel back as it was, which changes nothing. -/
theorem readReturnsTheResultOrFaults : Obligations.ReadReturnsTheResultOrFaults := by
  unfold Obligations.ReadReturnsTheResultOrFaults
  refine fun s c ch r h hf => ⟨fun v hv => ?_, fun hv => perform_of_quiet_move h hf rfl (.readUnset hv)⟩
  rw [perform_of_move h hf (.read hv), State.afterMove, Action.chan, State.setChannel_same h]
  rfl

/-- Settles O41: the copies are moves, and a CPY's port update is the one field. -/
theorem copiesMoveTheResultIntoAPort : Obligations.CopiesMoveTheResultIntoAPort := by
  unfold Obligations.CopiesMoveTheResultIntoAPort
  intro s c ch o h hf ho
  have hcpy : ∀ (p : Port) (ch' : Channel), ch.copyTo? p o = some ch' →
      perform (.cpy c p.id) s = .next (s.setChannel c ch') :=
    fun p ch' hc => perform_of_quiet_move h hf rfl (.cpy ho hc)
  exact ⟨hcpy .ctrkey _ rfl, hcpy .mackey _ rfl, hcpy .a _ rfl, hcpy .b _ rfl,
    fun l hl => perform_of_quiet_move h hf rfl (.cpyad hl ho)⟩

/-- Settles O51: with `R_OUT` unset the moves are those that record the fault. -/
theorem copyOfAnUnsetResultRecordsTheFault : Obligations.CopyOfAnUnsetResultRecordsTheFault := by
  unfold Obligations.CopyOfAnUnsetResultRecordsTheFault
  refine fun s c ch h hf ho => ⟨fun id hid => ?_, fun l hl => perform_of_quiet_move h hf rfl (.cpyadUnset hl ho)⟩
  obtain ⟨p, rfl⟩ := Port.exists_id (hid.trans (by decide))
  exact perform_of_quiet_move h hf rfl (.cpyUnset ho hid)

/-- Settles O43: the write issues the word, and id 12 names the command register, which is not readable. -/
theorem cmdIsWriteOnlyAndIssues : Obligations.CmdIsWriteOnlyAndIssues := by
  unfold Obligations.CmdIsWriteOnlyAndIssues
  intro s c ch w h hf
  exact ⟨perform_of_word? (word?_write_cmd c w) s, onChannel_of_ready h hf⟩

/-! ### Which actions are moves -/

/-- Only values of the ports and of the command register have a domain, and the values of `CMD` are the 32-bit words. -/
theorem PortValue.wf_cases {n id : Nat} {v : PortValue} (h : v.wf n id = true) :
    (∃ p : Port, p.id = id) ∨ ∀ c, ∃ w, (Action.write c id v).word? = some w := by
  unfold PortValue.wf at h
  split at h
  case h_7 m => exact .inr fun c => ⟨_, if_pos ⟨rfl, of_decide_eq_true h⟩⟩
  case h_8 => cases h
  all_goals exact .inl (Port.exists_id (by decide))

theorem Action.chan_lt_of_wf {nCh n : Nat} {act : Action} (h : act.wf nCh n = true) : act.chan < nCh := by
  cases act with
  | issue | cpyad => exact of_decide_eq_true h
  | write | clear | read | cpy => exact of_decide_eq_true (Bool.and_eq_true_iff.mp h).1

/-- A move is an action of the form R39 and R47 give. -/
theorem HostMove.wf {cfgOk : Bool} {ch ch' : Channel} {act : Action} {rs : List RegValue} {nCh : Nat}
    (hm : HostMove cfgOk ch act ch' rs) (hc : act.chan < nCh) : act.wf nCh Config.maxLen = true := by
  have hchan := decide_eq_true hc
  cases hm with
  | @command _ w hw =>
    obtain h | h := word?_eq_some hw <;> rw [h]
    · exact hchan
    · exact Bool.and_eq_true_iff.mpr ⟨hchan, decide_eq_true w.isLt⟩
  | @write _ p v _ hw =>
    have hdom := (ch.writePort?_isSome_iff _ p v).mp (Option.isSome_of_eq_some hw)
    exact Bool.and_eq_true_iff.mpr ⟨hchan, hdom⟩
  | clear _ p => exact Bool.and_eq_true_iff.mpr ⟨hchan, decide_eq_true p.id_le⟩
  | @read _ r | @readUnset _ r =>
    obtain ⟨hlow, hhigh⟩ := r.id_mem
    exact Bool.and_eq_true_iff.mpr ⟨hchan, Bool.and_eq_true_iff.mpr ⟨decide_eq_true hlow, decide_eq_true hhigh⟩⟩
  | @cpy _ p v _ _ hcopy =>
    have hp : decide (p.id ≤ 3) = true := by rw [← ch.copyTo?_isSome p v, hcopy, Option.isSome_some]
    exact Bool.and_eq_true_iff.mpr ⟨hchan, hp⟩
  | cpyUnset _ hp => exact Bool.and_eq_true_iff.mpr ⟨hchan, decide_eq_true hp⟩
  | cpyad | cpyadUnset => exact hchan

/-- An action of that form, CPYAD aside, is a move on every channel. -/
theorem HostMove.exists_of_wf {act : Action} {nCh : Nat} (h : act.wf nCh Config.maxLen = true)
    (hne : ∀ c k, act ≠ .cpyad c k) (cfgOk : Bool) (ch : Channel) : ∃ ch' rs, HostMove cfgOk ch act ch' rs := by
  cases act with
  | issue c w => exact ⟨_, _, .command rfl⟩
  | write c id v =>
    obtain ⟨-, hv⟩ := Bool.and_eq_true_iff.mp h
    obtain ⟨p, rfl⟩ | hword := PortValue.wf_cases hv
    · obtain ⟨ch', hw⟩ := Option.isSome_iff_exists.mp ((ch.writePort?_isSome_iff _ p v).mpr hv)
      exact ⟨ch', _, .write hw⟩
    · obtain ⟨w, hw⟩ := hword c
      exact ⟨_, _, .command hw⟩
  | clear c id =>
    obtain ⟨-, hid⟩ := Bool.and_eq_true_iff.mp h
    obtain ⟨p, rfl⟩ := Port.exists_id (of_decide_eq_true hid)
    exact ⟨_, _, .clear c p⟩
  | read c id =>
    obtain ⟨-, hid⟩ := Bool.and_eq_true_iff.mp h
    obtain ⟨hlow, hhigh⟩ := Bool.and_eq_true_iff.mp hid
    obtain ⟨r, rfl⟩ := ResultReg.exists_id (of_decide_eq_true hlow) (of_decide_eq_true hhigh)
    cases hr : ch.readResult? r with
    | some v => exact ⟨_, _, .read hr⟩
    | none => exact ⟨_, _, .readUnset hr⟩
  | cpy c id =>
    obtain ⟨-, hid⟩ := Bool.and_eq_true_iff.mp h
    obtain ⟨p, rfl⟩ := Port.exists_id ((of_decide_eq_true hid).trans (by decide))
    cases ho : ch.out with
    | some v =>
      obtain ⟨ch', hc⟩ := Option.isSome_iff_exists.mp ((ch.copyTo?_isSome p v).trans hid)
      exact ⟨ch', _, .cpy ho hc⟩
    | none => exact ⟨_, _, .cpyUnset ho (of_decide_eq_true hid)⟩
  | cpyad c k => exact absurd rfl (hne c k)

/-- A CPYAD is a move exactly where `P_AD` is set and its index is the length of `P_AD`. -/
theorem HostMove.exists_cpyad_iff {cfgOk : Bool} {ch : Channel} {c k : Nat} :
    (∃ ch' rs, HostMove cfgOk ch (.cpyad c k) ch' rs) ↔ ∃ l, ch.ad = some l ∧ k = l.length := by
  constructor
  · rintro ⟨ch', rs, hm⟩
    cases hm with
    | command hw => cases hw
    | cpyad hl _ | cpyadUnset hl _ => exact ⟨_, hl, rfl⟩
  · rintro ⟨l, hl, rfl⟩
    cases ho : ch.out with
    | some v => exact ⟨_, _, .cpyad hl ho⟩
    | none => exact ⟨_, _, .cpyadUnset hl ho⟩

/-- An action answers a next state exactly where it has a move on the channel it names. -/
theorem exists_perform_iff {s : State} {act : Action} {ch : Channel} (h : s.channel? act.chan = some ch)
    (hf : ch.fault = none) : (∃ t, perform act s = .next t) ↔ ∃ ch' rs, HostMove s.cfgOk ch act ch' rs := by
  constructor
  · rintro ⟨t, ht⟩
    obtain ⟨x, ch', rs, hx, -, hm, -⟩ := perform_eq_next_iff.mp ht
    cases hx.symm.trans h
    exact ⟨ch', rs, hm⟩
  · rintro ⟨ch', rs, hm⟩
    exact ⟨_, perform_of_move h hf hm⟩

/-- Settles O42: the actions that answer a next state are those with a move. -/
theorem onlyWellFormedActionsAreMoves : Obligations.OnlyWellFormedActionsAreMoves := by
  unfold Obligations.OnlyWellFormedActionsAreMoves
  refine fun s act => ⟨fun hwf t ht => ?_, fun hwf hok hne => ?_, fun c k ch h hf => ?_⟩
  · obtain ⟨ch, ch', rs, hch, -, hm, -⟩ := perform_eq_next_iff.mp ht
    obtain ⟨hc, -⟩ := List.getElem?_eq_some_iff.mp hch
    exact absurd (hm.wf hc) (by rw [hwf]; decide)
  · have hch : s.channel? act.chan = some _ := List.getElem?_eq_getElem (Action.chan_lt_of_wf hwf)
    exact (exists_perform_iff hch (hok _ hch)).mpr (HostMove.exists_of_wf hwf hne s.cfgOk _)
  · exact (exists_perform_iff (act := .cpyad c k) h hf).trans HostMove.exists_cpyad_iff

end Sys2Proof.Machine
end

section
/-! The results of a command are a function of the ports it reads: two runs on the same operands, compared rule by rule
(spec/10_state.md R67). -/

namespace Sys2Proof.Machine

/-! ### Endings, `CI` left aside -/

/-- Two endings raise the same status or give the same result, whatever each leaves in `CI`. -/
inductive Ending.SameResult : Ending → Ending → Prop where
  | raised {k : Status} {ci ci' : CipherInst} : SameResult (.raised k ci) (.raised k ci')
  | done {v : Bytes} {ci ci' : CipherInst} : SameResult (.done v ci) (.done v ci')

theorem Ending.SameResult.refl (e : Ending) : e.SameResult e := by
  cases e with
  | raised => exact .raised
  | done => exact .done

theorem Ending.SameResult.ite {q : Prop} [Decidable q] {e₁ e₁' e₂ e₂' : Ending} (h₁ : e₁.SameResult e₁')
    (h₂ : e₂.SameResult e₂') : (if q then e₁ else e₂).SameResult (if q then e₁' else e₂') := by
  split
  · exact h₁
  · exact h₂

theorem Ending.SameResult.andThen {e e' : Ending} {k : Bytes → CipherInst → Ending} (h : e.SameResult e')
    (hk : ∀ v ci ci', (k v ci).SameResult (k v ci')) : (e.andThen k).SameResult (e'.andThen k) := by
  cases h with
  | raised => exact .raised
  | done => exact hk _ _ _

section
variable (P : Params) (ci ci' : CipherInst)

/-- Keying either loads the key, and then both runs go on from the same `CI`, or fails in both (R102, R107). -/
theorem rekey_sameResult (k : Bytes) (steps : CipherInst → Ending) : (rekey P k ci steps).SameResult (rekey P k ci' steps) :=
  .ite (.refl _) .raised

theorem s2vPhase_sameResult (km pt : Bytes) (ad : List Bytes) :
    (s2vPhase P km pt ad ci).SameResult (s2vPhase P km pt ad ci') :=
  .ite .raised (rekey_sameResult P ci ci' km _)

theorem ctrPhase_sameResult (kc iv : Bytes) (nb : Nat) : (ctrPhase P kc iv nb ci).SameResult (ctrPhase P kc iv nb ci') :=
  rekey_sameResult P ci ci' kc _

theorem xorSteps_sameResult (a b : Bytes) : (xorSteps a b ci).SameResult (xorSteps a b ci') := .ite .raised .done

theorem xorendSteps_sameResult (a b : Bytes) : (xorendSteps a b ci).SameResult (xorendSteps a b ci') := .ite .raised .done

theorem padSteps_sameResult (a : Bytes) : (padSteps a ci).SameResult (padSteps a ci') := .ite .raised .done

theorem dblSteps_sameResult (a : Bytes) : (dblSteps a ci).SameResult (dblSteps a ci') := .ite .raised .done

theorem cteqSteps_sameResult (a b : Bytes) : (cteqSteps a b ci).SameResult (cteqSteps a b ci') := .ite .raised .done

theorem ctrSteps_sameResult (kc iv : Bytes) (nb : Nat) : (ctrSteps P kc iv nb ci).SameResult (ctrSteps P kc iv nb ci') :=
  .ite .raised (.ite .raised (ctrPhase_sameResult P ci ci' kc iv nb))

/-- R203: the phases of SEAL load their keys themselves. -/
theorem sealSteps_sameResult (kc km pt : Bytes) (ad : List Bytes) :
    (sealSteps P kc km pt ad ci).SameResult (sealSteps P kc km pt ad ci') :=
  .ite .raised <| (s2vPhase_sameResult P ci ci' km pt ad).andThen fun iv x x' =>
    (ctrPhase_sameResult P x x' kc iv _).andThen fun _ _ _ => .done

/-- R203: the phases of OPEN load their keys themselves. -/
theorem openSteps_sameResult (kc km input : Bytes) (ad : List Bytes) :
    (openSteps P kc km input ad ci).SameResult (openSteps P kc km input ad ci') :=
  .ite .raised <| (ctrPhase_sameResult P ci ci' kc _ _).andThen fun _ x x' =>
    (s2vPhase_sameResult P x x' km _ ad).andThen fun _ _ _ => .ite .raised .done

end

/-! ### Channels -/

/-- Two channels show the same `R_OUT` and `R_STATUS`; after a SHL1 that succeeded, the same `R_CARRY` too. -/
structure Channel.SameResults (i : Instr) (ch ch' : Channel) : Prop where
  out : ch'.out = ch.out
  status : ch'.status = ch.status
  carry : i = .shl1 → ch.status = some .ok → ch'.carry = ch.carry

theorem Channel.SameResults.finish {i : Instr} (hi : i ≠ .shl1) {e e' : Ending} (h : e.SameResult e') (ch ch' : Channel) :
    SameResults i (ch.finish e) (ch'.finish e') := by
  cases h with
  | raised => exact ⟨rfl, rfl, fun hshl => absurd hshl hi⟩
  | done => exact ⟨rfl, rfl, fun hshl => absurd hshl hi⟩

/-- SHL1 writes the carry where it succeeds, and where it fails nothing is asked of the carry (R137). -/
theorem shl1Steps_sameResults (i : Instr) (ch ch' : Channel) (blk : Bytes) :
    Channel.SameResults i (shl1Steps ch blk) (shl1Steps ch' blk) := by
  unfold shl1Steps
  split
  · exact ⟨rfl, rfl, fun _ hok => by simp at hok⟩
  · exact ⟨rfl, rfl, fun _ _ => rfl⟩

/-! ### Operands -/

/-- `v` and `v'` are the contents of one port in two channels: set, and the same. -/
def SameOperand {α : Type} (v v' : Option α) : Prop := ∃ x, v = some x ∧ v' = some x

/-- Ports that read the same as host values hold the same, the reading `f` being one to one. -/
theorem SameOperand.of_map {α : Type} {f : α → PortValue} (hf : f.Injective) {v v' : Option α}
    (h : v'.map f = v.map f ∧ v.map f ≠ none) : SameOperand v v' := by
  obtain ⟨heq, hset⟩ := h
  obtain ⟨x, hx⟩ := Option.ne_none_iff_exists'.mp fun hv : v = none => hset (by rw [hv, Option.map_none])
  exact ⟨x, hx, (Option.map_injective hf heq).trans hx⟩

/-- Reading a port that is set, and the same in both runs, passes one value on to both. -/
theorem SameOperand.operand {α : Type} {i : Instr} {c c' : Nat} {ch ch' : Channel} {p : Port} {v v' : Option α}
    {k k' : α → Channel} (h : SameOperand v v') (hk : ∀ x, Channel.SameResults i (k x) (k' x)) :
    Channel.SameResults i (Machine.operand c ch p v k) (Machine.operand c' ch' p v' k') := by
  obtain ⟨x, rfl, rfl⟩ := h
  exact hk x

section
variable {i : Instr} {ch ch' : Channel}
  (h : ∀ p ∈ portsRead i, ch'.portValue p = ch.portValue p ∧ ch.portValue p ≠ none)
include h

theorem sameOperand_ctrkey (hp : .ctrkey ∈ portsRead i := by decide) : SameOperand ch.ctrkey ch'.ctrkey :=
  .of_map (fun _ _ => PortValue.bytes.inj) (h .ctrkey hp)

theorem sameOperand_mackey (hp : .mackey ∈ portsRead i := by decide) : SameOperand ch.mackey ch'.mackey :=
  .of_map (fun _ _ => PortValue.bytes.inj) (h .mackey hp)

theorem sameOperand_a (hp : .a ∈ portsRead i := by decide) : SameOperand ch.a ch'.a :=
  .of_map (fun _ _ => PortValue.bytes.inj) (h .a hp)

theorem sameOperand_b (hp : .b ∈ portsRead i := by decide) : SameOperand ch.b ch'.b :=
  .of_map (fun _ _ => PortValue.bytes.inj) (h .b hp)

theorem sameOperand_ad (hp : .ad ∈ portsRead i := by decide) : SameOperand ch.ad ch'.ad :=
  .of_map (fun _ _ => PortValue.list.inj) (h .ad hp)

theorem sameOperand_nb (hp : .nb ∈ portsRead i := by decide) : SameOperand ch.nb ch'.nb :=
  .of_map (fun _ _ hn => BitVec.eq_of_toNat_eq (PortValue.int.inj hn)) (h .nb hp)

/-- A command reads its ports one by one, then ends in steps whose result `CI` has no part in. -/
theorem commandOn_sameResults (c c' : Nat) : Channel.SameResults i (commandOn i c ch) (commandOn i c' ch') := by
  cases i with
  | xor =>
    exact (sameOperand_a h).operand fun a => (sameOperand_b h).operand fun b =>
      .finish (by decide) (xorSteps_sameResult _ _ a b) ch ch'
  | xorend =>
    exact (sameOperand_a h).operand fun a => (sameOperand_b h).operand fun b =>
      .finish (by decide) (xorendSteps_sameResult _ _ a b) ch ch'
  | pad =>
    exact (sameOperand_a h).operand fun a => .finish (by decide) (padSteps_sameResult _ _ a) ch ch'
  | shl1 =>
    exact (sameOperand_a h).operand fun a => shl1Steps_sameResults .shl1 ch ch' a
  | dbl =>
    exact (sameOperand_a h).operand fun a => .finish (by decide) (dblSteps_sameResult _ _ a) ch ch'
  | cteq =>
    exact (sameOperand_a h).operand fun a => (sameOperand_b h).operand fun b =>
      .finish (by decide) (cteqSteps_sameResult _ _ a b) ch ch'
  | s2v =>
    exact (sameOperand_mackey h).operand fun km => (sameOperand_a h).operand fun pt =>
      (sameOperand_ad h).operand fun ad =>
      .finish (by decide) (s2vPhase_sameResult _ _ _ km pt ad) ch ch'
  | ctr =>
    exact (sameOperand_ctrkey h).operand fun kc => (sameOperand_a h).operand fun iv =>
      (sameOperand_nb h).operand fun nb =>
      .finish (by decide) (ctrSteps_sameResult _ _ _ kc iv nb.toNat) ch ch'
  | seal_ =>
    exact (sameOperand_ctrkey h).operand fun kc => (sameOperand_mackey h).operand fun km =>
      (sameOperand_a h).operand fun pt => (sameOperand_ad h).operand fun ad =>
      .finish (by decide) (sealSteps_sameResult _ _ _ kc km pt ad) ch ch'
  | open_ =>
    exact (sameOperand_ctrkey h).operand fun kc => (sameOperand_mackey h).operand fun km =>
      (sameOperand_a h).operand fun input => (sameOperand_ad h).operand fun ad =>
      .finish (by decide) (openSteps_sameResult _ _ _ kc km input ad) ch ch'

end

/-- Settles O32: each command replaces its own channel, and the two replacements show the same results. -/
theorem resultsDependOnOperandsAlone : Obligations.ResultsDependOnOperandsAlone := by
  unfold Obligations.ResultsDependOnOperandsAlone
  intro i s s' ch ch' hr hr' hports
  obtain ⟨hout, hstatus, hcarry⟩ := commandOn_sameResults hports s.cur s'.cur
  exact ⟨_, _, exec_of_ready hr, exec_of_ready hr', hout, hstatus, hcarry⟩

end Sys2Proof.Machine
end

section
/-! Command words and status codes (spec/30_encoding.md R70 to R81). -/

namespace Sys2Proof.Machine

/-! ### Command words -/

/-- The word of a command decodes to it (R72, R75). -/
@[simp] theorem decode_encode (i : Instr) : decode (encode i) = .ok i := by cases i <;> rfl

/-- Decoding gives a command exactly on that command's word. -/
theorem decode_eq_ok_iff {w : Word} {i : Instr} : decode w = .ok i ↔ w = encode i :=
  ⟨eq_encode_of_decode, fun h => h ▸ decode_encode i⟩

/-- The commands in the order of R75's table. -/
def tableCommands : List Instr := [.xor, .xorend, .pad, .shl1, .dbl, .cteq, .s2v, .ctr, .seal_, .open_]

theorem mem_tableCommands (i : Instr) : i ∈ tableCommands := by cases i <;> decide

/-- The numbers in R75's table are those of the commands' words. -/
theorem map_toNat_encode_tableCommands : tableCommands.map (fun i => (encode i).toNat) =
    [0x01, 0x02, 0x03, 0x04, 0x05, 0x06, 0x10, 0x20, 0x30, 0x31] := rfl

/-- A word decodes exactly where its number stands in R75's table. -/
theorem exists_decode_iff_toNat_mem {w : Word} : (∃ i, decode w = .ok i) ↔
    w.toNat ∈ [0x01, 0x02, 0x03, 0x04, 0x05, 0x06, 0x10, 0x20, 0x30, 0x31] := by
  simp only [decode_eq_ok_iff, ← map_toNat_encode_tableCommands, List.mem_map]
  constructor
  · rintro ⟨i, rfl⟩
    exact ⟨i, mem_tableCommands i, rfl⟩
  · rintro ⟨i, -, hi⟩
    exact ⟨i, BitVec.eq_of_toNat_eq hi.symm⟩

/-- Settles O1: the ten words are the encodings of the ten commands. -/
theorem opcodeMapWordsDecode : Obligations.OpcodeMapWordsDecode := by
  unfold Obligations.OpcodeMapWordsDecode
  exact ⟨decode_encode .xor, decode_encode .xorend, decode_encode .pad, decode_encode .shl1, decode_encode .dbl,
    decode_encode .cteq, decode_encode .s2v, decode_encode .ctr, decode_encode .seal_, decode_encode .open_⟩

/-- Settles O2: a number of the table is below 256, so the quotient is 0 and the remainder is the number itself. -/
theorem decodeInvertsEncodeOnEveryWord : Obligations.DecodeInvertsEncodeOnEveryWord := by
  unfold Obligations.DecodeInvertsEncodeOnEveryWord
  refine ⟨decode_encode, fun _ _ => eq_encode_of_decode, fun w => exists_decode_iff_toNat_mem.trans ?_⟩
  have hbelow : ∀ n ∈ [0x01, 0x02, 0x03, 0x04, 0x05, 0x06, 0x10, 0x20, 0x30, 0x31], n < 256 := by decide
  constructor
  · intro hmem
    have hlt := hbelow _ hmem
    exact ⟨Nat.div_eq_of_lt hlt, by rwa [Nat.mod_eq_of_lt hlt]⟩
  · rintro ⟨hdiv, hmem⟩
    have hlt : w.toNat < 256 := Nat.lt_of_div_eq_zero (by decide) hdiv
    rwa [Nat.mod_eq_of_lt hlt] at hmem

/-! ### Issuing a word on a configured block -/

/-- The word of a command, past the configuration check. -/
theorem wordOn_encode (i : Instr) (c : Nat) (ch : Channel) : wordOn true (encode i) c ch = commandOn i c ch := by
  simp [wordOn]

/-- An illegal word, past the configuration check (R76). -/
theorem wordOn_illegal {w : Word} (h : ∀ i, encode i ≠ w) (c : Nat) (ch : Channel) :
    wordOn true w c ch = ch.raise .illegalCommand := by
  cases hdec : decode w with
  | ok i => exact absurd (eq_encode_of_decode hdec).symm (h i)
  | error e => simp [wordOn, hdec]

/-- A step with an action left performs it, the program and the index moved on (R37). -/
theorem step_of_todo {s : State} {act : Action} {rest : List Action} (h : s.todo = act :: rest) :
    step s = perform act { s with todo := rest, index := s.index + 1 } := by
  simp [step, hostStep, h]

/-- Settles O4: the word is no encoding, so it does not decode, and the channel is replaced by its `raise`. -/
theorem illegalWordEndsWithIllegalCommand : Obligations.IllegalWordEndsWithIllegalCommand := by
  unfold Obligations.IllegalWordEndsWithIllegalCommand
  intro s c w rest ch htodo hillegal h hf hcfg
  have hstep := (step_of_todo htodo).trans
    (issue_of_ready (s := { s with todo := rest, index := s.index + 1 }) h hf w)
  refine ⟨_, hstep, rfl, ?_⟩
  rw [State.setChannel_channels, hcfg, wordOn_illegal hillegal]
  rfl

/-! ### Status codes -/

/-- The status of a code; `ILLEGAL_COMMAND` for the codes R80 leaves out too. -/
def Status.ofCode (b : BitVec 8) : Status :=
  if b = 0x00 then .ok
  else if b = 0x01 then .configuration
  else if b = 0x02 then .invalidKey
  else if b = 0x03 then .invalidInput
  else if b = 0x04 then .invalidLength
  else if b = 0x05 then .unauthentic
  else .illegalCommand

theorem Status.ofCode_code (st : Status) : ofCode st.code = st := by cases st <;> rfl

theorem Status.code_injective : Function.Injective Status.code := Function.LeftInverse.injective ofCode_code

theorem Status.code_le (st : Status) : st.code.toNat ≤ 6 := by cases st <;> decide

/-- Settles O45: a code gives its status back, and READ of `R_STATUS` is a reading of a set result. -/
theorem statusReadsAsItsCode : Obligations.StatusReadsAsItsCode := by
  unfold Obligations.StatusReadsAsItsCode
  refine ⟨Status.code_le, fun _ _ h => Status.code_injective h, rfl, rfl, rfl, rfl, rfl, rfl, rfl, fun s c ch st h hf hst => ?_⟩
  have hread : ch.readResult? .status = some (.code st.code) := by simp [Channel.readResult?, hst]
  exact (readReturnsTheResultOrFaults s c ch .status h hf).1 _ hread

end Sys2Proof.Machine
end

section
/-! The macros of the assembler, run (spec/30_encoding.md R85, R86): the state part-way through a program that acts on one
channel, and what each kind of action makes of it. -/

namespace Sys2Proof.Machine

/-! ### Writes of values in their domains -/

theorem Channel.writePort?_ctrkey {n : Nat} {x : Bytes} (h : x.length ≤ n) (ch : Channel) :
    ch.writePort? n .ctrkey (.bytes x) = some { ch with ctrkey := some x } := if_pos h

theorem Channel.writePort?_mackey {n : Nat} {x : Bytes} (h : x.length ≤ n) (ch : Channel) :
    ch.writePort? n .mackey (.bytes x) = some { ch with mackey := some x } := if_pos h

theorem Channel.writePort?_a {n : Nat} {x : Bytes} (h : x.length ≤ n) (ch : Channel) :
    ch.writePort? n .a (.bytes x) = some { ch with a := some x } := if_pos h

theorem Channel.writePort?_ad {n : Nat} {l : List Bytes} (h : ∀ x ∈ l, x.length ≤ n) (ch : Channel) :
    ch.writePort? n .ad (.list l) = some { ch with ad := some l } :=
  if_pos (List.all_eq_true.mpr fun x hx => decide_eq_true (h x hx))

/-! ### A program acting on one channel -/

/-- The state `n` actions into a program that acts on channel `c` alone: the channel as it then is, and the actions left. -/
def State.midway (s : State) (c : Nat) (ch : Channel) (todo : List Action) (n : Nat) : State :=
  { s with channels := s.channels.set c ch, todo := todo, index := s.index + n }

/-- Before its first action the program is at the state itself. -/
theorem State.midway_zero {s : State} {c : Nat} {ch : Channel} {todo : List Action} (h : s.channel? c = some ch)
    (ht : s.todo = todo) : s.midway c ch todo 0 = s := by
  subst ht
  exact State.setChannel_same h

/-- A step that answers a next state is the first of a run. -/
theorem run_succ_of_step {s t : State} (h : step s = .next t) (k : Nat) : core.run (k + 1) s = core.run k t := by
  have h' : core.step s = .next t := h
  simp [Host.Core.run, h']

section
variable {s : State} {c : Nat} {ch₀ ch : Channel} (h : s.channel? c = some ch₀) (hf : ch.fault = none)
include h hf

/-- The next action of the program is a move on its channel that reads nothing. -/
theorem run_midway_move {act : Action} {ch' : Channel} (hc : act.chan = c) (hm : HostMove s.cfgOk ch act ch' [])
    (rest : List Action) (n k : Nat) :
    core.run (k + 1) (s.midway c ch (act :: rest) n) =
      core.run k (({ s with cur := if act.word?.isSome then c else s.cur }).midway c ch' rest (n + 1)) := by
  subst hc
  have hch : (s.midway act.chan ch rest (n + 1)).channel? act.chan = some ch := State.channel?_setChannel_self h ch
  have hstep : step (s.midway act.chan ch (act :: rest) n) =
      .next ((s.midway act.chan ch rest (n + 1)).afterMove act ch' []) :=
    (step_of_todo rfl).trans (perform_of_move hch hf hm)
  rw [run_succ_of_step hstep]
  simp [State.afterMove, State.midway, State.setChannel]

/-- The next action is a WRITE of a value in the port's domain. -/
theorem run_midway_write {p : Port} {v : PortValue} {ch' : Channel} (hw : ch.writePort? Config.maxLen p v = some ch')
    (rest : List Action) (n k : Nat) :
    core.run (k + 1) (s.midway c ch (.write c p.id v :: rest) n) = core.run k (s.midway c ch' rest (n + 1)) := by
  rw [run_midway_move h hf rfl (.write hw), word?_write_port]
  rfl

/-- The next action is a CLEAR of a port. -/
theorem run_midway_clear (p : Port) (rest : List Action) (n k : Nat) :
    core.run (k + 1) (s.midway c ch (.clear c p.id :: rest) n) =
      core.run k (s.midway c (ch.clearPort p) rest (n + 1)) :=
  run_midway_move h hf rfl (.clear c p) rest n k

/-- The next action issues a command, on a configured block. -/
theorem run_midway_command (hcfg : s.cfgOk = true) (i : Instr) (rest : List Action) (n k : Nat) :
    core.run (k + 1) (s.midway c ch (.issue c (encode i) :: rest) n) =
      core.run k (({ s with cur := c }).midway c (commandOn i c ch) rest (n + 1)) := by
  rw [run_midway_move h hf rfl (.command rfl), hcfg, Action.chan, wordOn_encode]
  rfl

end

/-! ### The macros -/

/-- The actions of `seal.k` (R86). -/
theorem actionsOf_sealK (c : Nat) (kc km pt ad : PortValue) : actionsOf [⟨c, .sealK kc km pt ad⟩] =
    some [.write c Port.ctrkey.id kc, .write c Port.mackey.id km, .write c Port.a.id pt, .write c Port.ad.id ad,
      .issue c (encode .seal_)] := rfl

/-- The actions of `wipe` (R86). -/
theorem actionsOf_wipe (c : Nat) :
    actionsOf [⟨c, .wipe⟩] = some [.clear c Port.ctrkey.id, .clear c Port.mackey.id] := rfl

/-- SEAL on a channel whose four ports are set ends in its steps (R190). -/
theorem sealOn_of_set (P : Params) (c : Nat) {ch : Channel} {kc km pt : Bytes} {ad : List Bytes} (hkc : ch.ctrkey = some kc)
    (hkm : ch.mackey = some km) (hpt : ch.a = some pt) (had : ch.ad = some ad) :
    sealOn P c ch = ch.finish (sealSteps P kc km pt ad ch.ci) := by
  simp [sealOn, hkc, hkm, hpt, had]

/-- Settles O46: four writes in their ports' domains, then SEAL of what they wrote. -/
theorem sealMacroSealsItsOperands : Obligations.SealMacroSealsItsOperands := by
  unfold Obligations.SealMacroSealsItsOperands
  intro s ch kc km pt ad acts rest h hf hcfg hkc hkm hpt had hacts htodo
  cases (actionsOf_sealK ..).symm.trans hacts
  calc core.run 5 s
    _ = core.run 5 (s.midway 0 ch (_ ++ rest) 0) := congrArg (core.run 5) (State.midway_zero h htodo).symm
    _ = core.run 4 (s.midway 0 { ch with ctrkey := some kc } _ 1) :=
      run_midway_write h hf (Channel.writePort?_ctrkey hkc _) _ 0 4
    _ = core.run 3 (s.midway 0 { ch with ctrkey := some kc, mackey := some km } _ 2) :=
      run_midway_write h (by exact hf) (Channel.writePort?_mackey hkm _) _ 1 3
    _ = core.run 2 (s.midway 0 { ch with ctrkey := some kc, mackey := some km, a := some pt } _ 3) :=
      run_midway_write h (by exact hf) (Channel.writePort?_a hpt _) _ 2 2
    _ = core.run 1 (s.midway 0 { ch with ctrkey := some kc, mackey := some km, a := some pt, ad := some ad } _ 4) :=
      run_midway_write h (by exact hf) (Channel.writePort?_ad had _) _ 3 1
    _ = .next (({ s with cur := 0 }).midway 0
          (sealOn attached 0 { ch with ctrkey := some kc, mackey := some km, a := some pt, ad := some ad }) rest 5) :=
      run_midway_command h (by exact hf) hcfg .seal_ rest 4 0
    _ = _ := by rw [sealOn_of_set attached 0 rfl rfl rfl rfl]; rfl

/-- Settles O47: two clears. -/
theorem wipeMacroClearsTheKeyPorts : Obligations.WipeMacroClearsTheKeyPorts := by
  unfold Obligations.WipeMacroClearsTheKeyPorts
  intro s c ch acts rest h hf hacts htodo
  cases (actionsOf_wipe c).symm.trans hacts
  calc core.run 2 s
    _ = core.run 2 (s.midway c ch (_ ++ rest) 0) := congrArg (core.run 2) (State.midway_zero h htodo).symm
    _ = core.run 1 (s.midway c (ch.clearPort .ctrkey) _ 1) := run_midway_clear h hf .ctrkey _ 0 1
    _ = .next (s.midway c ((ch.clearPort .ctrkey).clearPort .mackey) rest 2) :=
      run_midway_clear h (by exact hf) .mackey rest 1 0

end Sys2Proof.Machine
end

section
/-! The CMAC the block is attached to, as a chain of block-cipher calls (spec/40_adapter.md R104). -/

namespace Sys2Proof.Machine

/-- The chain value of CMAC before block `i`: zero, then each block XORed in and encrypted (R104). -/
def cmacChain (bc : Bytes → Block16 → Block16) (k m : Bytes) : Nat → Bytes
  | 0 => zeroBlock
  | i + 1 => encBlock bc k (xorBytes (cmacChain bc k m i) (slice m (16 * i) (16 * i + 16)))

/-- The model's loop over the blocks computes the chain. -/
theorem foldl_range_eq_cmacChain (bc : Bytes → Block16 → Block16) (k m : Bytes) (n : Nat) :
    (List.range n).foldl (fun x i => encBlock bc k (xorBytes x (slice m (16 * i) (16 * i + 16)))) zeroBlock =
      cmacChain bc k m n := by
  induction n with
  | zero => rfl
  | succ n ih => rw [List.range_succ, List.foldl_concat, ih, cmacChain]

/-- CMAC encrypts the last chain value XORed with the masked last block (R104). -/
theorem toList_cmacRfc4493 (bc : Bytes → Block16 → Block16) (k m : Bytes) :
    (cmacRfc4493 bc k m).toList = encBlock bc k (xorBytes (cmacChain bc k m (cmacBlocks m - 1))
      (cmacLast (dblBlock (encBlock bc k zeroBlock)) (dblBlock (dblBlock (encBlock bc k zeroBlock))) m)) := by
  rw [← foldl_range_eq_cmacChain]
  rfl

/-- One block for the empty message, a block for every 16 bytes begun otherwise. -/
theorem cmacBlocks_eq_ite (m : Bytes) : cmacBlocks m = if m.length = 0 then 1 else (m.length + 15) / 16 := by
  unfold cmacBlocks
  split <;> omega

/-- A message of whole blocks ends where its last block does, so cutting it there takes nothing away. -/
theorem slice_last_block {m : Bytes} (h : m.length ≠ 0 ∧ m.length % 16 = 0) :
    slice m (16 * (cmacBlocks m - 1)) (16 * cmacBlocks m) = m.drop (16 * (cmacBlocks m - 1)) := by
  have hend : m.length ≤ 16 * cmacBlocks m := by unfold cmacBlocks; omega
  rw [slice, List.take_of_length_le hend]

/-- The masked last block, a complete one named by its two ends. -/
theorem cmacLast_eq_ite (k1 k2 m : Bytes) :
    cmacLast k1 k2 m = if m.length ≠ 0 ∧ m.length % 16 = 0
      then xorBytes (slice m (16 * (cmacBlocks m - 1)) (16 * cmacBlocks m)) k1
      else xorBytes (padBlock (m.drop (16 * (cmacBlocks m - 1)))) k2 := by
  unfold cmacLast
  split
  case isTrue h => rw [slice_last_block h]
  case isFalse => rfl

/-- Settles O19: the chain values are those of the model's loop. -/
theorem attachedCmacIsTheChainOfR104 : Obligations.AttachedCmacIsTheChainOfR104 := by
  unfold Obligations.AttachedCmacIsTheChainOfR104
  intro k m
  exact ⟨cmacChain Config.bc k m, cmacBlocks m, _, _, rfl, cmacBlocks_eq_ite m, cmacLast_eq_ite _ _ m, rfl,
    fun _ _ => rfl, toList_cmacRfc4493 Config.bc k m⟩

end Sys2Proof.Machine
end

section
/-! The commands that key the cipher: the steps each ends in, and what a rejected key leaves in `CI` (spec/40_adapter.md
R102, spec/60_exceptions.md R223, R226). -/

namespace Sys2Proof.Machine

/-! ### The steps of a command whose ports are set -/

section
variable {s : State} {ch : Channel} {kc km x : Bytes} {ad : List Bytes} {nb : BitVec 32}

/-- CTR on a ready channel whose three ports are set ends in its steps (R175). -/
theorem exec_ctr_of_set (hr : Ready s ch) (hkc : ch.ctrkey = some kc) (hx : ch.a = some x) (hnb : ch.nb = some nb) :
    exec .ctr s = .next (s.setChannel s.cur (ch.finish (ctrSteps attached kc x nb.toNat ch.ci))) := by
  simp [exec_of_ready hr, commandOn, ctrOn, hkc, hx, hnb]

/-- S2V on a ready channel whose three ports are set ends in its steps (R155). -/
theorem exec_s2v_of_set (hr : Ready s ch) (hkm : ch.mackey = some km) (hx : ch.a = some x) (had : ch.ad = some ad) :
    exec .s2v s = .next (s.setChannel s.cur (ch.finish (s2vPhase attached km x ad ch.ci))) := by
  simp [exec_of_ready hr, commandOn, s2vOn, hkm, hx, had]

/-- SEAL on a ready channel whose four ports are set ends in its steps (R190). -/
theorem exec_seal_of_set (hr : Ready s ch) (hkc : ch.ctrkey = some kc) (hkm : ch.mackey = some km) (hx : ch.a = some x)
    (had : ch.ad = some ad) :
    exec .seal_ s = .next (s.setChannel s.cur (ch.finish (sealSteps attached kc km x ad ch.ci))) := by
  rw [exec_of_ready hr, commandOn, sealOn_of_set attached s.cur hkc hkm hx had]

/-- OPEN on a ready channel whose four ports are set ends in its steps (R200). -/
theorem exec_open_of_set (hr : Ready s ch) (hkc : ch.ctrkey = some kc) (hkm : ch.mackey = some km) (hx : ch.a = some x)
    (had : ch.ad = some ad) :
    exec .open_ s = .next (s.setChannel s.cur (ch.finish (openSteps attached kc km x ad ch.ci))) := by
  simp [exec_of_ready hr, commandOn, openOn, hkc, hkm, hx, had]

end

/-! ### Rejected keys -/

section
variable (P : Params) (ci : CipherInst) {kc km : Bytes} {ad : List Bytes}

/-- S2V with an accepted count and a rejected key (R150 step S2). -/
theorem s2vPhase_rejected (hn : ad.length ≤ 126) (hk : P.keyOk km.length = false) (pt : Bytes) :
    s2vPhase P km pt ad ci = .raised .invalidKey ci := by
  simp [s2vPhase, Config.maxAd, rekey_rejected hk, Nat.not_lt.mpr hn]

/-- A keystream under a rejected key (R170 step K1). -/
theorem ctrPhase_rejected (hk : P.keyOk kc.length = false) (iv : Bytes) (nb : Nat) :
    ctrPhase P kc iv nb ci = .raised .invalidKey ci := rekey_rejected hk ci _

/-- CTR on operands in range is the keystream phase (R175). -/
theorem ctrSteps_of_in_range {iv : Bytes} {nb : Nat} (hiv : iv.length = 16) (hnb : nb * 16 ≤ P.maxLen) :
    ctrSteps P kc iv nb ci = ctrPhase P kc iv nb ci := by
  simp [ctrSteps, hiv, Nat.not_lt.mpr hnb]

/-- SEAL stops in its first phase where the MAC key is rejected. -/
theorem sealSteps_of_rejected_mackey {pt : Bytes} (hpt : pt.length + 16 ≤ P.maxLen) (hn : ad.length ≤ 126)
    (hkm : P.keyOk km.length = false) : sealSteps P kc km pt ad ci = .raised .invalidKey ci := by
  rw [sealSteps, if_neg (Nat.not_lt.mpr hpt), s2vPhase_rejected P ci hn hkm, Ending.andThen_raised]

/-- SEAL has keyed `CI` with the MAC key where the CTR key is rejected. -/
theorem sealSteps_of_rejected_ctrkey {pt : Bytes} (hpt : pt.length + 16 ≤ P.maxLen) (hn : ad.length ≤ 126)
    (hkm : P.keyOk km.length = true) (hkc : P.keyOk kc.length = false) :
    sealSteps P kc km pt ad ci = .raised .invalidKey (.keyed km) := by
  rw [sealSteps, if_neg (Nat.not_lt.mpr hpt), s2vPhase_accepted hn hkm, Ending.andThen_done, ctrPhase_rejected P _ hkc,
    Ending.andThen_raised]

/-- OPEN stops in its first phase where the CTR key is rejected, before the elements are counted (R226). -/
theorem openSteps_of_rejected_ctrkey {input : Bytes} (hlen : 16 ≤ input.length) (hkc : P.keyOk kc.length = false) :
    openSteps P kc km input ad ci = .raised .invalidKey ci := by
  simp only [openSteps, if_neg (Nat.not_lt.mpr hlen), ctrPhase_rejected P ci hkc, Ending.andThen_raised]

/-- OPEN has keyed `CI` with the CTR key where the MAC key is rejected. -/
theorem openSteps_of_rejected_mackey {input : Bytes} (hlen : 16 ≤ input.length) (hkc : P.keyOk kc.length = true)
    (hn : ad.length ≤ 126) (hkm : P.keyOk km.length = false) :
    openSteps P kc km input ad ci = .raised .invalidKey (.keyed kc) := by
  simp only [openSteps, if_neg (Nat.not_lt.mpr hlen), ctrPhase_accepted hkc, Ending.andThen_done,
    s2vPhase_rejected P _ hn hkm, Ending.andThen_raised]

end

/-- Settles O26: each command ends in its steps, which stop at the rejected key. -/
theorem rejectedKeyLeavesTheCipherInstance : Obligations.RejectedKeyLeavesTheCipherInstance := by
  unfold Obligations.RejectedKeyLeavesTheCipherInstance
  intro s ch hr
  refine ⟨?ctr, ?s2v, fun kc km x ad hkc hkm hx had => ⟨?sealMac, ?sealCtr, ?openCtr, ?openMac⟩⟩
  case ctr =>
    intro kc iv nb hkc hiv hnb hlen hmax hbad
    rw [exec_ctr_of_set hr hkc hiv hnb, ctrSteps_of_in_range attached _ hlen hmax,
      ctrPhase_rejected attached _ hbad]
    rfl
  case s2v =>
    intro km pt ad hkm hpt had hn hbad
    rw [exec_s2v_of_set hr hkm hpt had, s2vPhase_rejected attached _ hn hbad]
    rfl
  case sealMac =>
    intro hmax hn hbad
    rw [exec_seal_of_set hr hkc hkm hx had, sealSteps_of_rejected_mackey attached _ hmax hn hbad]
    rfl
  case sealCtr =>
    intro hmax hn hok hbad
    rw [exec_seal_of_set hr hkc hkm hx had, sealSteps_of_rejected_ctrkey attached _ hmax hn hok hbad]
    rfl
  case openCtr =>
    intro hlen hbad
    rw [exec_open_of_set hr hkc hkm hx had, openSteps_of_rejected_ctrkey attached _ hlen hbad]
    rfl
  case openMac =>
    intro hlen hok hn hbad
    rw [exec_open_of_set hr hkc hkm hx had, openSteps_of_rejected_mackey attached _ hlen hok hn hbad]
    rfl

end Sys2Proof.Machine
end

section
/-! The bit primitives byte by byte, and the commands that run them (spec/41_bitprims.md R121 to R147). -/

namespace Sys2Proof.Machine

/-! ### Bytes of the results -/

/-- Byte `i` of `xor(a, b)`, where both strings have one (R121). -/
theorem xorBytes_getD {a b : Bytes} {i : Nat} (ha : i < a.length) (hb : i < b.length) :
    (xorBytes a b).getD i 0 = a.getD i 0 ^^^ b.getD i 0 := by
  simp [xorBytes, ha, hb]

/-- `xorend` keeps the bytes of `a` before the last `len(b)` (R126). -/
theorem xorEnd_getD_of_lt {a b : Bytes} {i : Nat} (hi : i < a.length - b.length) :
    (xorEnd a b).getD i 0 = a.getD i 0 := by
  rw [xorEnd, List.getD_append _ _ _ _ (by rw [List.length_take]; omega), List.getD_eq_getElem?_getD,
    List.getElem?_take_of_lt hi, ← List.getD_eq_getElem?_getD]

/-- `xorend` holds `a ⊕ b` in the last `len(b)` bytes (R126). -/
theorem xorEnd_getD_last {a b : Bytes} (h : b.length ≤ a.length) {j : Nat} (hj : j < b.length) :
    (xorEnd a b).getD (a.length - b.length + j) 0 = a.getD (a.length - b.length + j) 0 ^^^ b.getD j 0 := by
  have hdrop : j < (a.drop (a.length - b.length)).length := by rw [List.length_drop]; omega
  have htake : (a.take (a.length - b.length)).length = a.length - b.length := by simp
  rw [xorEnd, List.getD_append_right _ _ _ _ (by omega), htake, Nat.add_sub_cancel_left, xorBytes_getD hdrop hj]
  simp

/-- `pad` keeps the bytes of its operand (R131). -/
theorem padBlock_getD_of_lt {s : Bytes} {i : Nat} (hi : i < s.length) : (padBlock s).getD i 0 = s.getD i 0 :=
  List.getD_append _ _ _ _ hi

/-- `pad` puts `0x80` right after its operand (R131). -/
theorem padBlock_getD_marker (s : Bytes) : (padBlock s).getD s.length 0 = 0x80 := by
  simp [padBlock]

/-- `pad` fills the block with zeros (R131). -/
theorem padBlock_getD_fill {s : Bytes} {i : Nat} (hi : s.length < i) (hi' : i < 16) : (padBlock s).getD i 0xFF = 0 := by
  obtain ⟨j, rfl⟩ := Nat.exists_eq_add_of_lt hi
  have hj : j < 15 - s.length := by omega
  simp [padBlock, Nat.add_assoc, hj]

/-- The shift, one byte at a time: the byte after moves its bit 7 in, and a zero follows the last byte (R136). -/
theorem shiftBytes_cons (x : Byte) (s : Bytes) : shiftBytes (x :: s) = ((x <<< 1) ||| (s.headD 0 >>> 7)) :: shiftBytes s := by
  cases s with
  | nil => simp [shiftBytes]
  | cons y s => rfl

/-- Byte `i` of the shifted string (R136). -/
theorem shiftBytes_getD (s : Bytes) (i : Nat) :
    (shiftBytes s).getD i 0 = (s.getD i 0 <<< 1) ||| (s.getD (i + 1) 0 >>> 7) := by
  induction s generalizing i with
  | nil => simp [shiftBytes]
  | cons x s ih =>
    rw [shiftBytes_cons]
    cases i with
    | zero => cases s <;> rfl
    | succ i => exact ih i

/-- The last byte of a shifted block: nothing moves in (R136). -/
theorem shiftBytes_getD_last {s : Bytes} (h : s.length = 16) : (shiftBytes s).getD 15 0 = s.getD 15 0 <<< 1 := by
  rw [shiftBytes_getD, List.getD_eq_default s (n := 15 + 1) 0 h.le]
  simp

/-- The carry is the high bit of byte 0 (R136). -/
theorem carryOf_eq_getD (s : Bytes) : carryOf s = (s.getD 0 0).extractLsb' 7 1 := by cases s <;> rfl

theorem carryOf_toNat (s : Bytes) : (carryOf s).toNat = ((s.getD 0 0).getLsbD 7).toNat := by
  rw [carryOf_eq_getD, BitVec.extractLsb'_toNat, Nat.shiftRight_eq_div_pow, BitVec.getLsbD, Nat.toNat_testBit]

/-- `dbl` is the shift with byte 15 masked (R141). -/
theorem dblBlock_eq_set (s : Bytes) :
    dblBlock s = (shiftBytes s).set 15 ((shiftBytes s).getD 15 0 ^^^ (0x87 &&& carryMask (carryOf s))) := by
  simp only [dblBlock, shiftLeft1, List.modify_eq_set, List.getD_eq_getElem?_getD]
  rfl

/-- The mask step leaves the bytes before byte 15 as the shift gives them (R141). -/
theorem dblBlock_getD_of_lt {s : Bytes} {i : Nat} (hi : i < 15) :
    (dblBlock s).getD i 0 = (s.getD i 0 <<< 1) ||| (s.getD (i + 1) 0 >>> 7) := by
  rw [← shiftBytes_getD, dblBlock_eq_set]
  simp [hi.ne']

/-- Byte 15 of `dbl`: the reduction constant under the carry mask (R141). -/
theorem dblBlock_getD_last {s : Bytes} (h : s.length = 16) :
    (dblBlock s).getD 15 0 = (s.getD 15 0 <<< 1) ^^^ (0x87 &&& carryMask (carryOf s)) := by
  rw [← shiftBytes_getD_last h, dblBlock_eq_set]
  simp [h]

/-! ### The shift as a number -/

/-- One byte of the shift as a number: the bit shifted out weighs 256, the bit moved in 1 (R55). -/
theorem toNat_shift_byte (x y : Byte) :
    ((x <<< 1) ||| (y >>> 7)).toNat + 256 * (x.extractLsb' 7 1).toNat = 2 * x.toNat + (y.extractLsb' 7 1).toNat := by
  have hin : y.toNat >>> 7 < 2 ^ 1 := by rw [Nat.shiftRight_eq_div_pow]; omega
  have hout : x.toNat <<< 1 % 2 ^ 8 = (x.toNat % 2 ^ 7) <<< 1 := by simp only [Nat.shiftLeft_eq]; omega
  rw [BitVec.toNat_or, BitVec.toNat_shiftLeft, BitVec.toNat_ushiftRight, hout, ← Nat.shiftLeft_add_eq_or_of_lt hin,
    BitVec.extractLsb'_toNat, BitVec.extractLsb'_toNat]
  simp only [Nat.shiftLeft_eq, Nat.shiftRight_eq_div_pow]
  omega

/-- The shifted string with its carry in front is twice the string (R136). -/
theorem beNat_shiftBytes (s : Bytes) : beNat (shiftBytes s) + 256 ^ s.length * (carryOf s).toNat = 2 * beNat s := by
  induction s with
  | nil => rfl
  | cons x s ih =>
    have hx := congrArg (256 ^ s.length * ·) (toNat_shift_byte x (s.headD 0))
    rw [shiftBytes_cons, beNat_cons, beNat_cons, shiftBytes_length, List.length_cons, pow_succ]
    simp only [carryOf, List.headD_cons] at ih ⊢
    linarith

section
variable {s : Bytes} (h : s.length = 16)
include h

theorem beNat_lt_of_length_eq_sixteen : beNat s < 2 ^ 128 := by
  have := beNat_lt s
  rw [h] at this
  omega

/-- A shifted block is twice the block modulo `2^128` (R136). -/
theorem beNat_shiftBytes_eq_mod : beNat (shiftBytes s) = 2 * beNat s % 2 ^ 128 := by
  have hdouble := beNat_shiftBytes s
  have hlt := beNat_lt_of_length_eq_sixteen (s := shiftBytes s) (by simpa using h)
  rw [h] at hdouble
  omega

/-- The carry of a block is its number divided by `2^127` (R136). -/
theorem carryOf_toNat_eq_div : (carryOf s).toNat = beNat s / 2 ^ 127 := by
  have hdouble := beNat_shiftBytes s
  have hlt := beNat_lt_of_length_eq_sixteen (s := shiftBytes s) (by simpa using h)
  rw [h] at hdouble
  omega

end

/-! ### The compare -/

/-- A bit of an OR over bytes is set where it is set at the start or in some byte. -/
theorem foldl_or_getLsbD (l : Bytes) (x : Byte) (k : Nat) :
    (l.foldl (· ||| ·) x).getLsbD k = true ↔ x.getLsbD k = true ∨ ∃ y ∈ l, y.getLsbD k = true := by
  induction l generalizing x with
  | nil => simp
  | cons y l ih => simp [ih, or_assoc]

section
variable {u v : Bytes} (hu : u.length = 16) (hv : v.length = 16)
include hu hv

/-- A bit of the accumulator is set where some byte differs in it (R146). -/
theorem ctAcc_getLsbD (k : Nat) :
    (ctAcc u v).getLsbD k = true ↔ ∃ i, i < 16 ∧ (u.getD i 0 ^^^ v.getD i 0).getLsbD k = true := by
  have hlen : (xorBytes u v).length = 16 := by rw [xorBytes_length (by omega), hu]
  have hbyte : ∀ i (hi : i < (xorBytes u v).length), (xorBytes u v)[i] = u.getD i 0 ^^^ v.getD i 0 := fun i hi => by
    rw [← xorBytes_getD (by omega) (by omega), List.getD_eq_getElem _ _ hi]
  simp [ctAcc, foldl_or_getLsbD, List.exists_mem_iff_getElem, hbyte, hlen]

/-- The accumulator is 0 exactly where the blocks are equal (R146): a byte in which they differ has a bit in which it does. -/
theorem ctAcc_eq_zero_iff : ctAcc u v = 0 ↔ u = v := by
  constructor
  · intro hacc
    refine List.ext_getElem (hu.trans hv.symm) fun i hi hi' => ?_
    have hxor : u.getD i 0 ^^^ v.getD i 0 = 0 := BitVec.eq_of_getLsbD_eq fun k _ => by
      have hbit := mt (fun hd => (ctAcc_getLsbD hu hv k).mpr ⟨i, by omega, hd⟩) (by simp [hacc])
      simpa using hbit
    simpa [hi, hi'] using BitVec.xor_eq_zero_iff.mp hxor
  · rintro rfl
    refine BitVec.eq_of_getLsbD_eq fun k _ => ?_
    have hbit := mt (ctAcc_getLsbD hu hv k).mp (by simp)
    simpa using hbit

end

/-! ### The six commands on set ports -/

/-- A command that fails before it keys the cipher writes the status and an empty result, nothing else (R223). -/
theorem Channel.finish_raised_same_ci (ch : Channel) (k : Status) :
    ch.finish (.raised k ch.ci) = { ch with out := some [], status := some k } := rfl

/-- A command that succeeds without the cipher writes the result and the status, nothing else (R35). -/
theorem Channel.finish_done_same_ci (ch : Channel) (v : Bytes) :
    ch.finish (.done v ch.ci) = { ch with out := some v, status := some .ok } := rfl

section
variable {s : State} {ch : Channel} {a b : Bytes} (hr : Ready s ch) (ha : ch.a = some a)
include hr ha

/-- XOR on a ready channel whose two ports are set ends in its steps (R122). -/
theorem exec_xor_of_set (hb : ch.b = some b) :
    exec .xor s = .next (s.setChannel s.cur (ch.finish (xorSteps a b ch.ci))) := by
  simp [exec_of_ready hr, commandOn, xorOn, ha, hb]

/-- XOREND on a ready channel whose two ports are set ends in its steps (R127). -/
theorem exec_xorend_of_set (hb : ch.b = some b) :
    exec .xorend s = .next (s.setChannel s.cur (ch.finish (xorendSteps a b ch.ci))) := by
  simp [exec_of_ready hr, commandOn, xorendOn, ha, hb]

/-- PAD on a ready channel whose port is set ends in its steps (R132). -/
theorem exec_pad_of_set : exec .pad s = .next (s.setChannel s.cur (ch.finish (padSteps a ch.ci))) := by
  simp [exec_of_ready hr, commandOn, padOn, ha]

/-- SHL1 on a ready channel whose port is set ends in its steps (R137). -/
theorem exec_shl1_of_set : exec .shl1 s = .next (s.setChannel s.cur (shl1Steps ch a)) := by
  simp [exec_of_ready hr, commandOn, shl1On, ha]

/-- DBL on a ready channel whose port is set ends in its steps (R142). -/
theorem exec_dbl_of_set : exec .dbl s = .next (s.setChannel s.cur (ch.finish (dblSteps a ch.ci))) := by
  simp [exec_of_ready hr, commandOn, dblOn, ha]

/-- CTEQ on a ready channel whose two ports are set ends in its steps (R147). -/
theorem exec_cteq_of_set (hb : ch.b = some b) :
    exec .cteq s = .next (s.setChannel s.cur (ch.finish (cteqSteps a b ch.ci))) := by
  simp [exec_of_ready hr, commandOn, cteqOn, ha, hb]

end

/-- Settles O10: XOR ends in its steps, on either side of the length check. -/
theorem xorWritesTheBytewiseXor : Obligations.XorWritesTheBytewiseXor := by
  unfold Obligations.XorWritesTheBytewiseXor
  refine ⟨decode_encode .xor, fun s ch a b hr ha hb => ⟨fun hlen => ?long, fun hlen => ⟨xorBytes a b, ?fits, ?bytes⟩⟩⟩
  case long => rw [exec_xor_of_set hr ha hb, xorSteps, if_pos hlen, ch.finish_raised_same_ci]
  case fits => rw [exec_xor_of_set hr ha hb, xorSteps, if_neg (Nat.not_lt.mpr hlen), ch.finish_done_same_ci]
  case bytes => exact ⟨xorBytes_length hlen, fun i hi => xorBytes_getD hi (hi.trans_le hlen)⟩

/-- Settles O11: XOREND ends in its steps, on either side of the length check. -/
theorem xorendXorsTheLastBytes : Obligations.XorendXorsTheLastBytes := by
  unfold Obligations.XorendXorsTheLastBytes
  refine ⟨decode_encode .xorend, fun s ch a b hr ha hb => ⟨fun hlen => ?short, fun hlen => ⟨xorEnd a b, ?fits, ?bytes⟩⟩⟩
  case short => rw [exec_xorend_of_set hr ha hb, xorendSteps, if_pos hlen, ch.finish_raised_same_ci]
  case fits => rw [exec_xorend_of_set hr ha hb, xorendSteps, if_neg (Nat.not_lt.mpr hlen), ch.finish_done_same_ci]
  case bytes => exact ⟨xorEnd_length hlen, fun _ => xorEnd_getD_of_lt, fun _ => xorEnd_getD_last hlen⟩

/-- Settles O12: PAD ends in its steps, on either side of the length check. -/
theorem padFillsOneBlock : Obligations.PadFillsOneBlock := by
  unfold Obligations.PadFillsOneBlock
  refine ⟨decode_encode .pad, fun s ch a hr ha => ⟨fun hlen => ?long, fun hlen => ⟨padBlock a, ?fits, ?bytes⟩⟩⟩
  case long => rw [exec_pad_of_set hr ha, padSteps, if_pos hlen, ch.finish_raised_same_ci]
  case fits => rw [exec_pad_of_set hr ha, padSteps, if_neg (Nat.not_le.mpr hlen), ch.finish_done_same_ci]
  case bytes =>
    exact ⟨padBlock_length hlen, fun _ => padBlock_getD_of_lt, padBlock_getD_marker a, fun _ => padBlock_getD_fill⟩

/-- Settles O13: SHL1 ends in its steps, the number is that of the byte-wise shift, and no other command ends in a write
of the carry. -/
theorem shl1ShiftsAndWritesTheCarry : Obligations.Shl1ShiftsAndWritesTheCarry := by
  unfold Obligations.Shl1ShiftsAndWritesTheCarry
  refine ⟨decode_encode .shl1, fun s ch a hr ha =>
    ⟨fun hlen => ?badLength, fun hlen => ⟨shiftBytes a, carryOf a, ?block, ?bytes⟩, fun i t hi ht => ?others⟩⟩
  case badLength => rw [exec_shl1_of_set hr ha, shl1Steps, if_pos hlen]; rfl
  case block => rw [exec_shl1_of_set hr ha, shl1Steps, if_neg (not_not.mpr hlen)]; rfl
  case bytes =>
    exact ⟨(shiftBytes_length a).trans hlen, carryOf_toNat a, fun i _ => shiftBytes_getD a i, shiftBytes_getD_last hlen,
      beNat_shiftBytes_eq_mod hlen, carryOf_toNat_eq_div hlen⟩
  case others =>
    cases (exec_of_ready hr).symm.trans ht
    exact ⟨_, State.channel?_setChannel_self hr.1 _, commandOn_carry hi s.cur ch⟩

/-- Settles O14: DBL ends in its steps, which write no carry. -/
theorem dblShiftsAndReduces : Obligations.DblShiftsAndReduces := by
  unfold Obligations.DblShiftsAndReduces
  refine ⟨decode_encode .dbl, fun s ch a hr ha => ⟨fun hlen => ?badLength, fun hlen => ⟨dblBlock a, ?block, ?bytes⟩⟩⟩
  case badLength => rw [exec_dbl_of_set hr ha, dblSteps, if_pos hlen, ch.finish_raised_same_ci]
  case block => rw [exec_dbl_of_set hr ha, dblSteps, if_neg (not_not.mpr hlen), ch.finish_done_same_ci]
  case bytes =>
    exact ⟨(dblBlock_length a).trans hlen, fun _ => dblBlock_getD_of_lt,
      by rw [dblBlock_getD_last hlen, carryMask, carryOf_eq_getD]; rfl⟩

/-- Settles O16: CTEQ ends in its steps, with status OK whatever the accumulator is. -/
theorem cteqWritesTheAccumulator : Obligations.CteqWritesTheAccumulator := by
  unfold Obligations.CteqWritesTheAccumulator
  refine ⟨decode_encode .cteq, fun s ch u v hr hu hv =>
    ⟨fun hlen => ?badLength, fun hlenu hlenv => ⟨ctAcc u v, ?blocks, ?bits⟩⟩⟩
  case badLength => rw [exec_cteq_of_set hr hu hv, cteqSteps, if_pos hlen, ch.finish_raised_same_ci]
  case blocks => rw [exec_cteq_of_set hr hu hv, cteqSteps, if_neg (by simp [hlenu, hlenv]), ch.finish_done_same_ci]
  case bits => exact ⟨fun k _ => ctAcc_getLsbD hlenu hlenv k, ctAcc_eq_zero_iff hlenu hlenv⟩

end Sys2Proof.Machine
end

section
/-! The access traces of `dbl` and of the compare (spec/41_bitprims.md R143, R148): a loop that records its accesses as it
runs, cut into the loop without its trace and the trace without its values. -/

namespace Sys2Proof.Machine

/-- A traced loop is the loop over its values beside the accesses of each iteration, of which none depends on a value. -/
theorem foldl_traced {α : Type} (step : α → Nat → α) (accesses : Nat → List Access) (l : List Nat) (x : α) :
    l.foldl (fun r i => (step r.1 i, r.2 ++ accesses i)) (x, []) = (l.foldl step x, l.flatMap accesses) := by
  rw [List.flatMap_eq_foldl]
  exact List.foldl_hom₂ l Prod.mk step _ _ x [] fun _ _ _ => rfl

/-- A byte string is its bytes read one index at a time. -/
theorem eq_map_getD_range (s : Bytes) : s = (List.range s.length).map (s.getD · 0) := by
  refine List.ext_getElem (by simp) fun i hi hi' => ?_
  simp [hi]

/-! ### The shift and the mask step -/

/-- The accesses of one iteration of the shift loop: two bytes read, one written (R136). -/
def shiftAccesses (i : Nat) : List Access := [.read .blk i, .read .blk (i + 1), .write .shifted i]

/-- The shift loop computes the first 15 shifted bytes, beside its accesses. -/
theorem shiftLoopTraced_eq (blk : Bytes) :
    shiftLoopTraced blk = ((List.range 15).map ((shiftBytes blk).getD · 0), (List.range 15).flatMap shiftAccesses) := by
  rw [List.map_eq_flatMap, List.flatMap_eq_foldl, ← foldl_traced]
  simp only [shiftBytes_getD]
  rfl

/-- The loop's bytes followed by the last one are the shifted block (R136). -/
theorem shiftLoopTraced_append_last {blk : Bytes} (h : blk.length = 16) :
    (shiftLoopTraced blk).1 ++ [blk.getD 15 0 <<< 1] = shiftBytes blk := by
  conv_rhs => rw [eq_map_getD_range (shiftBytes blk), shiftBytes_length, h, List.range_succ]
  simp only [shiftLoopTraced_eq, List.map_append, List.map_singleton, shiftBytes_getD_last h]

/-- The traced steps compute `dbl` (R141, R143). -/
theorem dblTraced_fst {blk : Bytes} (h : blk.length = 16) : (dblTraced blk).1 = dblBlock blk := by
  simp only [dblTraced, shiftLoopTraced_append_last h, dblBlock_eq_set, carryOf_eq_getD]

/-- Every access of `dbl`: the high bit's byte, the loop, the last byte, the mask step (R136, R141, R143). -/
theorem dblTraced_snd (blk : Bytes) :
    (dblTraced blk).2 = [.read .blk 0] ++ (List.range 15).flatMap shiftAccesses ++ [.read .blk 15, .write .shifted 15] ++
      [.read .shifted 15, .write .shifted 15] := by
  rw [dblTraced, shiftLoopTraced_eq, List.append_assoc _ [_, _] [_, _]]
  rfl

/-- Settles O17: the accesses are a list without the block in it. -/
theorem dblTraceDoesNotDependOnTheData : Obligations.DblTraceDoesNotDependOnTheData := by
  unfold Obligations.DblTraceDoesNotDependOnTheData
  intro u v hu _
  exact ⟨(dblTraced_snd u).trans (dblTraced_snd v).symm, dblTraced_snd u, dblTraced_fst hu⟩

/-! ### The compare -/

/-- The accesses of one iteration of the compare: the two bytes and the accumulator (R146). -/
def compareAccesses (i : Nat) : List Access := [.read .left i, .read .right i, .read .acc 0, .write .acc 0]

/-- The compare's loop beside its accesses. -/
theorem ctAccTraced_eq (u v : Bytes) :
    ctAccTraced u v = ((List.range 16).foldl (fun acc i => acc ||| (u.getD i 0 ^^^ v.getD i 0)) 0,
      (List.range 16).flatMap compareAccesses) :=
  foldl_traced (fun acc i => acc ||| (u.getD i 0 ^^^ v.getD i 0)) compareAccesses (List.range 16) 0

/-- The bytes the compare takes the OR of, by index (R146). -/
theorem xorBytes_eq_map_range {u v : Bytes} (hu : u.length = 16) (hv : v.length = 16) :
    xorBytes u v = (List.range 16).map fun i => u.getD i 0 ^^^ v.getD i 0 := by
  rw [eq_map_getD_range (xorBytes u v), xorBytes_length (by omega), hu]
  refine List.map_congr_left fun i hi => ?_
  rw [List.mem_range] at hi
  exact xorBytes_getD (by omega) (by omega)

/-- The traced loop computes the accumulator (R146, R148). -/
theorem ctAccTraced_fst {u v : Bytes} (hu : u.length = 16) (hv : v.length = 16) : (ctAccTraced u v).1 = ctAcc u v := by
  rw [ctAccTraced_eq, ctAcc, xorBytes_eq_map_range hu hv, List.foldl_map]

/-- Settles O18: the compare's accesses are a list without the operands in it. -/
theorem compareTraceDoesNotDependOnTheData : Obligations.CompareTraceDoesNotDependOnTheData := by
  unfold Obligations.CompareTraceDoesNotDependOnTheData
  intro u v u' v' hu hv
  refine ⟨?same, fun i hi => ?reads, ctAccTraced_fst hu hv⟩
  case same => rw [ctAccTraced_eq, ctAccTraced_eq]
  case reads =>
    have hmem : ∀ acc ∈ compareAccesses i, acc ∈ (ctAccTraced u v).2 := fun acc hacc => by
      rw [ctAccTraced_eq]
      exact List.mem_flatMap.mpr ⟨i, List.mem_range.mpr hi, hacc⟩
    exact ⟨hmem _ (by simp [compareAccesses]), hmem _ (by simp [compareAccesses])⟩

end Sys2Proof.Machine
end

section
/-! `dbl` as multiplication by `x` in GF(2^128) (spec/41_bitprims.md R144): the block as a number, and the polynomial over GF(2)
a number stands for. -/

namespace Sys2Proof.Machine

open Polynomial

/-! ### `dbl` as a number -/

/-- XOR into the last byte is XOR into the number. -/
theorem beNat_concat_xor (s : Bytes) (x m : Byte) : beNat (s ++ [x ^^^ m]) = beNat (s ++ [x]) ^^^ m.toNat := by
  have hconcat : ∀ y : Byte, beNat (s ++ [y]) = 2 ^ 8 * beNat s + y.toNat := fun y => by simp [beNat]
  refine Nat.eq_of_testBit_eq fun k => ?_
  rw [hconcat, hconcat, Nat.testBit_xor, Nat.testBit_two_pow_mul_add _ (x ^^^ m).isLt, Nat.testBit_two_pow_mul_add _ x.isLt,
    BitVec.toNat_xor, Nat.testBit_xor]
  split
  case isTrue => rfl
  case isFalse hk => rw [Nat.testBit_lt_two_pow (m.isLt.trans_le (Nat.pow_le_pow_right two_pos (by omega))), Bool.xor_false]

/-- `dbl` XORs the masked reduction constant into the shifted number (R141). -/
theorem beNat_dblBlock {s : Bytes} (h : s.length = 16) :
    beNat (dblBlock s) = beNat (shiftBytes s) ^^^ (0x87 &&& carryMask (carryOf s)).toNat := by
  have hlen : (shiftBytes s).length = 16 := (shiftBytes_length s).trans h
  obtain ⟨init, x, hs⟩ := (List.eq_nil_or_concat _).resolve_left (List.ne_nil_of_length_eq_add_one hlen)
  rw [List.concat_eq_append] at hs
  have hinit : init.length = 15 := by simpa [hs] using hlen
  rw [dblBlock_eq_set, hs, List.set_append_right _ _ hinit.le, List.getD_append_right _ _ _ _ hinit.le, hinit]
  exact beNat_concat_xor init x _

/-! ### Numbers as polynomials over GF(2) -/

theorem fieldPoly_coeff (n k : Nat) : (fieldPoly n).coeff k = if k < 128 ∧ n.testBit k then 1 else 0 := by
  have hterm : ∀ j, (if n.testBit j then (X : (ZMod 2)[X]) ^ j else 0).coeff k =
      if k = j then (if n.testBit k then 1 else 0) else 0 := fun j => by
    split <;> simp_all [coeff_X_pow]
  simp only [fieldPoly, finsetSum_coeff, hterm, Finset.sum_ite_eq, Finset.mem_range, ite_and]

theorem degree_fieldPoly_lt (n : Nat) : (fieldPoly n).degree < (128 : Nat) :=
  (degree_lt_iff_coeff_zero _ _).mpr fun k hk => by rw [fieldPoly_coeff, if_neg (by omega)]

/-- XOR of numbers is addition of polynomials. -/
theorem fieldPoly_xor (m n : Nat) : fieldPoly (m ^^^ n) = fieldPoly m + fieldPoly n := by
  ext k
  rw [coeff_add, fieldPoly_coeff, fieldPoly_coeff, fieldPoly_coeff, Nat.testBit_xor]
  by_cases hk : k < 128
  · cases m.testBit k <;> cases n.testBit k <;> simp [hk, CharTwo.add_self_eq_zero]
  · simp [hk]

theorem fieldPoly_zero : fieldPoly 0 = 0 := by simp [fieldPoly]

theorem fieldPoly_two_pow {j : Nat} (hj : j < 128) : fieldPoly (2 ^ j) = X ^ j := by
  ext k
  rw [fieldPoly_coeff, coeff_X_pow, Nat.testBit_two_pow]
  by_cases hk : k = j
  · simp [hk, hj]
  · simp [hk, Ne.symm hk]

/-- `0x87` stands for the polynomial `x^128` reduces to (R141, R144). -/
theorem fieldPoly_reduction : fieldPoly 0x87 = X ^ 7 + X ^ 2 + X + 1 := by
  have hbits : (0x87 : Nat) = 2 ^ 7 ^^^ 2 ^ 2 ^^^ 2 ^ 1 ^^^ 2 ^ 0 := by decide
  rw [hbits, fieldPoly_xor, fieldPoly_xor, fieldPoly_xor, fieldPoly_two_pow (by decide), fieldPoly_two_pow (by decide),
    fieldPoly_two_pow (by decide), fieldPoly_two_pow (by decide), pow_one, pow_zero]

/-- Multiplication by `x` moves every coefficient up by one: the doubled number modulo `2^128`, and `x^128` where the top bit was
set. -/
theorem X_mul_fieldPoly (n : Nat) :
    X * fieldPoly n = fieldPoly (2 * n % 2 ^ 128) + ((n / 2 ^ 127 % 2 : Nat) : (ZMod 2)[X]) * X ^ 128 := by
  ext k
  rw [← Nat.toNat_testBit, coeff_add, coeff_natCast_mul, coeff_X_pow, fieldPoly_coeff, Nat.testBit_mod_two_pow]
  cases k with
  | zero => simp
  | succ k =>
    have hbit : (2 * n).testBit (k + 1) = n.testBit k := by rw [Nat.testBit_succ, Nat.mul_div_cancel_left n two_pos]
    rw [coeff_X_mul, fieldPoly_coeff, hbit]
    obtain hk | rfl | hk := lt_trichotomy k 127
    · simp [show k < 128 by omega, show k + 1 < 128 by omega, show k + 1 ≠ 128 by omega]
    · cases n.testBit 127 <;> simp
    · simp [show ¬ k < 128 by omega, show ¬ k + 1 < 128 by omega, show k + 1 ≠ 128 by omega]

/-! ### Reduction -/

/-- The modulus of R144: `x^128` and what it reduces to. -/
theorem modulus_eq : X ^ 128 + X ^ 7 + X ^ 2 + X + 1 = X ^ 128 + fieldPoly 0x87 := by
  rw [fieldPoly_reduction]
  ring

/-- Modulo `x^N + p` with `p` of lower degree, a polynomial of lower degree is what its sums with multiples reduce to. -/
theorem modByMonic_X_pow_add {f p q r : (ZMod 2)[X]} {N : Nat} (hp : p.degree < N) (hr : r.degree < N)
    (h : r + (X ^ N + p) * q = f) : f %ₘ (X ^ N + p) = r := by
  have hdeg : (X ^ N + p).degree = (N : WithBot Nat) := by
    rw [degree_add_eq_left_of_degree_lt (hp.trans_eq (degree_X_pow N).symm), degree_X_pow]
  exact (div_modByMonic_unique q r (monic_X_pow_add hp) ⟨h, hr.trans_eq hdeg.symm⟩).2

/-- The masked constant as a polynomial: the reduction of `x^128` where the carry is set, 0 where it is not (R141). -/
theorem fieldPoly_mask (c : Bit) : fieldPoly (0x87 &&& carryMask c).toNat = (c.toNat : (ZMod 2)[X]) * fieldPoly 0x87 := by
  obtain rfl | rfl : c = 0 ∨ c = 1 := by revert c; decide
  · simpa [carryMask] using fieldPoly_zero
  · simp [carryMask]

/-- `dbl` and `x` times the block differ by a multiple of the modulus, the carry: the shift drops the carry's `x^128`, and the
mask adds the carry's reduction. -/
theorem fieldPoly_dblBlock {v : Bytes} (h : v.length = 16) :
    fieldPoly (beNat (dblBlock v)) + (X ^ 128 + fieldPoly 0x87) * ((carryOf v).toNat : (ZMod 2)[X]) =
      X * fieldPoly (beNat v) := by
  have hcarry : beNat v / 2 ^ 127 % 2 = (carryOf v).toNat := by rw [← carryOf_toNat_eq_div h]; omega
  rw [beNat_dblBlock h, fieldPoly_xor, fieldPoly_mask, X_mul_fieldPoly, ← beNat_shiftBytes_eq_mod h, hcarry]
  linear_combination ((carryOf v).toNat : (ZMod 2)[X]) * CharTwo.add_self_eq_zero (fieldPoly 0x87)

/-- Settles O15: the quotient is the carry for `x` times a block, and 1 for `x^128`. -/
theorem dblIsMultiplicationByXInTheField : Obligations.DblIsMultiplicationByXInTheField := by
  unfold Obligations.DblIsMultiplicationByXInTheField
  have hpow : fieldPoly 0x87 + (X ^ 128 + fieldPoly 0x87) * 1 = X ^ 128 := by
    linear_combination CharTwo.add_self_eq_zero (fieldPoly 0x87)
  have hlt := degree_fieldPoly_lt
  rw [modulus_eq]
  exact ⟨fun v hv => (modByMonic_X_pow_add (hlt _) (hlt _) (fieldPoly_dblBlock hv)).symm, fieldPoly_reduction,
    modByMonic_X_pow_add (hlt _) (hlt _) hpow⟩

end Sys2Proof.Machine
end

section
/-! S2V (spec/42_s2v.md R150 to R156): the chain value element by element, the two final inputs, and the command. -/

namespace Sys2Proof.Machine

section
variable (mac : Bytes → Bytes)

/-! ### The chain value (R150 steps S3 and S4) -/

/-- With no element the chain value is the CMAC of the zero block (R150 step S3, R156). -/
@[simp] theorem s2vChain_nil : s2vChain mac [] = mac zeroBlock := rfl

/-- One more element doubles the chain value and XORs the element's CMAC into it (R150 step S4). -/
@[simp] theorem s2vChain_concat (ad : List Bytes) (x : Bytes) :
    s2vChain mac (ad ++ [x]) = xorBytes (dblBlock (s2vChain mac ad)) (mac x) := List.foldl_concat ..

/-- The chain value after `i + 1` elements, from the one after `i` (R150 step S4). -/
theorem s2vChain_take_succ {ad : List Bytes} {i : Nat} (hi : i < ad.length) :
    s2vChain mac (ad.take (i + 1)) = xorBytes (dblBlock (s2vChain mac (ad.take i))) (mac (ad.getD i [])) := by
  rw [← List.take_concat_get' ad i hi, s2vChain_concat, List.getD_eq_getElem _ _ hi]

variable {mac}

/-- The chain value is one block, as every CMAC is. -/
theorem s2vChain_length (hmac : ∀ m, (mac m).length = 16) (ad : List Bytes) : (s2vChain mac ad).length = 16 := by
  induction ad using List.reverseRecOn with
  | nil => exact hmac zeroBlock
  | append_singleton ad x ih =>
    rw [s2vChain_concat, xorBytes_length (by rw [dblBlock_length, ih, hmac]), dblBlock_length, ih]

/-- The chain takes the CMAC of the zero block and of the elements, and of nothing else. -/
theorem s2vChain_congr {mac' : Bytes → Bytes} {ad : List Bytes} (hzero : mac' zeroBlock = mac zeroBlock)
    (had : ∀ x ∈ ad, mac' x = mac x) : s2vChain mac' ad = s2vChain mac ad := by
  rw [s2vChain, hzero]
  exact List.foldl_ext _ _ _ fun d x hx => by rw [had x hx]

/-! ### The final input and the tag (R150 steps S5 and S6) -/

/-- A plaintext of a block and more takes the chain value at its end (R150 step S5). -/
theorem s2vFinal_of_block_le {pt d : Bytes} (hd : d.length = 16) (hpt : 16 ≤ pt.length) :
    s2vFinal d pt = pt.take (pt.length - 16) ++ xorBytes (pt.drop (pt.length - 16)) d := by
  rw [s2vFinal, if_pos hpt, xorEnd, hd]

/-- A shorter plaintext is padded, and the chain value doubled once more (R150 step S5). -/
theorem s2vFinal_of_lt_block {pt : Bytes} (hpt : pt.length < 16) (d : Bytes) :
    s2vFinal d pt = xorBytes (dblBlock d) (padBlock pt) := if_neg (Nat.not_le.mpr hpt)

/-- The last string S2V takes the CMAC of is the final input (R156). -/
theorem s2vMacInputs_getLast? (pt : Bytes) (ad : List Bytes) :
    (s2vMacInputs mac pt ad).getLast? = some (s2vFinal (s2vChain mac ad) pt) := List.getLast?_concat

/-- A CMAC that agrees with `mac` on S2V's list of strings gives the same tag (R156). -/
theorem s2vTag_congr {mac' : Bytes → Bytes} {pt : Bytes} {ad : List Bytes}
    (h : ∀ x ∈ s2vMacInputs mac pt ad, mac' x = mac x) : s2vTag mac' pt ad = s2vTag mac pt ad := by
  have hchain : s2vChain mac' ad = s2vChain mac ad :=
    s2vChain_congr (h _ (by simp [s2vMacInputs])) fun x hx => h x (by simp [s2vMacInputs, hx])
  rw [s2vTag, hchain]
  exact h _ (by simp [s2vMacInputs])

end

/-- Settles O21: the final input on each side of 16 bytes, and the tag as the CMAC of the list's last string. -/
theorem s2vCornerCases : Obligations.S2vCornerCases := by
  unfold Obligations.S2vCornerCases
  refine fun mac hmac => ⟨rfl, fun pt ad =>
    ⟨by simp [s2vMacInputs], by rw [s2vMacInputs_getLast?]; rfl, fun _ => s2vTag_congr, s2vChain_nil mac,
      fun hpt => ?padded, fun hpt => ?oneBlock, fun hpt => ?longer⟩⟩
  case padded =>
    have hpad : padBlock pt = pt ++ [0x80] := by simp [padBlock, hpt]
    rw [s2vTag, s2vFinal_of_lt_block (by omega), hpad]
  case oneBlock =>
    rw [s2vTag, s2vFinal_of_block_le (s2vChain_length hmac ad) hpt.ge, hpt]
    rfl
  case longer => rw [s2vTag, s2vFinal_of_block_le (s2vChain_length hmac ad) hpt.le]

/-! ### The command (R155) -/

/-- S2V refuses more than 126 elements before it looks at the key (R150 step S1, R153). -/
theorem s2vPhase_of_too_many (P : Params) {ad : List Bytes} (hn : 126 < ad.length) (km pt : Bytes) (ci : CipherInst) :
    s2vPhase P km pt ad ci = .raised .invalidInput ci := if_pos hn

/-- Settles O20: the command ends in its phase, whose chain value after `i` elements is that of the first `i`. -/
theorem s2vComputesTheSyntheticIv : Obligations.S2vComputesTheSyntheticIv := by
  unfold Obligations.S2vComputesTheSyntheticIv
  refine ⟨decode_encode .s2v, fun s ch km pt ad hr hkm hpt had =>
    ⟨fun hn => ?tooMany, fun hn hkey => ⟨ch.ci, ?badKey⟩, fun hn hkey =>
      ⟨fun i => s2vChain (macUnder attached km) (ad.take i), s2vFinal (s2vChain (macUnder attached km) ad) pt,
        s2vTag (macUnder attached km) pt ad, ?tag, rfl, fun _ => s2vChain_take_succ _, ?final, rfl, s2vTag_length ..⟩⟩⟩
  case tooMany => rw [exec_s2v_of_set hr hkm hpt had, s2vPhase_of_too_many _ hn, ch.finish_raised_same_ci]
  case badKey =>
    rw [exec_s2v_of_set hr hkm hpt had, s2vPhase_rejected attached _ hn hkey]
    rfl
  case tag =>
    rw [exec_s2v_of_set hr hkm hpt had, s2vPhase_accepted hn hkey]
    rfl
  case final => simp only [List.take_length, s2vFinal]

end Sys2Proof.Machine
end

section
/-! CTR (spec/43_ctr.md R170 to R175): the masked counter as a number, the keystream block by block, and the command. -/

namespace Sys2Proof.Machine

/-! ### The counter's start (R171, R172) -/

/-- The bits of a big-endian number: those of the rest, then those of its first byte. -/
theorem beNat_cons_testBit (x : Byte) (s : Bytes) (k : Nat) :
    (beNat (x :: s)).testBit k =
      if k < 8 * s.length then (beNat s).testBit k else x.toNat.testBit (k - 8 * s.length) := by
  have hpow : 256 ^ s.length = 2 ^ (8 * s.length) := (pow_mul 2 8 s.length).symm
  rw [beNat_cons, hpow, Nat.mul_comm, Nat.testBit_two_pow_mul_add _ (hpow ▸ beNat_lt s)]

/-- The bytewise AND of two strings of one length is the AND of their numbers. -/
theorem beNat_zipWith_and {s t : Bytes} (h : s.length = t.length) :
    beNat (List.zipWith (· &&& ·) s t) = beNat s &&& beNat t := by
  induction s generalizing t with
  | nil => simp [beNat]
  | cons x s ih =>
    cases t with
    | nil => cases h
    | cons y t =>
      have hlen : s.length = t.length := by simpa using h
      have hzip : (List.zipWith (· &&& ·) s t).length = t.length := by simp [hlen]
      refine Nat.eq_of_testBit_eq fun k => ?_
      rw [List.zipWith_cons_cons, Nat.testBit_and, beNat_cons_testBit, beNat_cons_testBit, beNat_cons_testBit, hzip, hlen,
        ih hlen, BitVec.toNat_and, Nat.testBit_and, Nat.testBit_and]
      split <;> rfl

/-- The eight bytes the counter's start is masked with: bit 7 of the first and of the fifth is clear (R170 steps K2, K3). -/
def counterMask : Bytes := [0x7F, 0xFF, 0xFF, 0xFF, 0x7F, 0xFF, 0xFF, 0xFF]

/-- Masking two bytes of the IV is masking its last eight bytes with `counterMask`. -/
theorem slice_maskCounter {iv : Bytes} (h : iv.length = 16) :
    slice (maskCounter iv) 8 16 = List.zipWith (· &&& ·) (iv.drop 8) counterMask := by
  refine List.ext_getElem (by simp [slice, maskCounter, counterMask, h]) fun i hi _ => ?_
  have hi8 : i < 8 := by simpa [slice, maskCounter, h] using hi
  have hkeep : ∀ x : Byte, x &&& 255#8 = x := fun _ => BitVec.and_allOnes
  interval_cases i <;> simp [slice, maskCounter, counterMask, hkeep]

/-- `c0` is the last eight bytes of the IV read big-endian, with bits 63 and 31 cleared (R171). -/
theorem counterStart_eq_and {iv : Bytes} (h : iv.length = 16) :
    counterStart iv = beNat (iv.drop 8) &&& 0x7FFFFFFF7FFFFFFF := by
  rw [counterStart, slice_maskCounter h, beNat_zipWith_and (by simp [h, counterMask])]
  rfl

theorem counterStart_le {iv : Bytes} (h : iv.length = 16) : counterStart iv ≤ 0x7FFFFFFF7FFFFFFF := by
  rw [counterStart_eq_and h]
  exact Nat.and_le_right

/-- Bit 31 being clear leaves the low 32 bits below `2^31`. -/
theorem counterStart_mod_le {iv : Bytes} (h : iv.length = 16) : counterStart iv % 2 ^ 32 ≤ 0x7FFFFFFF := by
  rw [counterStart_eq_and h, Nat.and_mod_two_pow]
  exact Nat.and_le_right

/-- Settles O23: the cleared bits 63 and 31 leave room for every block index. -/
theorem counterNeverWraps : Obligations.CounterNeverWraps := by
  unfold Obligations.CounterNeverWraps
  intro iv hiv
  have hstart := counterStart_le hiv
  have hlow := counterStart_mod_le hiv
  refine ⟨hstart, fun nb i hnb hi => ⟨by omega, by omega, fun hmax => ?_⟩⟩
  have hblocks : nb ≤ 2 ^ 27 - 1 := by unfold Config.maxLenDefault at hmax; omega
  exact ⟨hblocks, by omega⟩

/-! ### The counter blocks and the keystream (R170) -/

/-- A counter block keeps the first eight bytes of the IV (R170 step K5). -/
theorem counterBlock_take {iv : Bytes} (h : iv.length = 16) (i : Nat) : (counterBlock iv i).take 8 = iv.take 8 :=
  List.take_left' (by simp [h])

/-- A counter block ends in the counter, modulo `2^64` (R170 step K5). -/
theorem counterBlock_drop {iv : Bytes} (h : iv.length = 16) (i : Nat) :
    beNat ((counterBlock iv i).drop 8) = (counterStart iv + i) % 2 ^ 64 := by
  rw [counterBlock, List.drop_left' (by simp [h]), beNat_toBe64 (Nat.mod_lt _ (by decide))]

/-- Block `i` of a concatenation of blocks of 16 bytes. -/
theorem slice_flatMap_block {α : Type} {f : α → Bytes} (hf : ∀ x, (f x).length = 16) (l : List α) {i : Nat}
    (hi : i < l.length) : slice (l.flatMap f) (16 * i) (16 * i + 16) = f l[i] := by
  have hsum : ∀ j, j ≤ l.length → (((l.map f).map List.length).take j).sum = 16 * j := fun j hj => by
    simp [Function.comp_def, hf, hj, Nat.mul_comm]
  have hblock := List.drop_take_succ_flatten_eq_getElem (l.map f) i (by simpa using hi)
  rwa [hsum _ hi, hsum _ hi.le, List.getElem_map, ← List.flatMap_def] at hblock

/-- Block `i` of the keystream is the cipher of counter block `i` (R170 step K5). -/
theorem slice_ctrKeystream {enc : Bytes → Bytes} (henc : ∀ x, (enc x).length = 16) (iv : Bytes) {nb i : Nat} (hi : i < nb) :
    slice (ctrKeystream enc iv nb) (16 * i) (16 * i + 16) = enc (counterBlock iv i) := by
  rw [ctrKeystream, slice_flatMap_block henc _ (by simpa using hi)]
  simp [counterBlocks]

/-! ### The command (R175) -/

/-- CTR refuses an IV of another length, and a keystream beyond `MAX_LEN`, before it looks at the key (R175). -/
theorem ctrSteps_out_of_range (P : Params) {iv : Bytes} {nb : Nat} (h : iv.length ≠ 16 ∨ nb * 16 > P.maxLen) (kc : Bytes)
    (ci : CipherInst) : ctrSteps P kc iv nb ci = .raised .invalidInput ci := by
  unfold ctrSteps
  split
  case isTrue => rfl
  case isFalse hiv => exact if_pos (h.resolve_left hiv)

/-- Settles O22: the command ends in its steps, and block `i` of the keystream enciphers counter block `i`. -/
theorem ctrWritesTheKeystream : Obligations.CtrWritesTheKeystream := by
  unfold Obligations.CtrWritesTheKeystream
  refine ⟨decode_encode .ctr, fun s ch kc iv nb hr hkc hiv hnb =>
    ⟨fun hrange => ?outOfRange, fun hlen hmax hkey => ⟨ch.ci, ?badKey⟩, fun hlen hmax hkey =>
      ⟨counterBlock iv, ctrKeystream (encUnder attached kc) iv nb.toNat, ?done, ctrKeystream_length (encUnder_length _ _) ..,
        fun i hi => ⟨slice_ctrKeystream (encUnder_length _ _) iv hi, counterBlock_length hlen i, counterBlock_take hlen i,
          ?counter⟩⟩⟩⟩
  case outOfRange => rw [exec_ctr_of_set hr hkc hiv hnb, ctrSteps_out_of_range attached hrange, ch.finish_raised_same_ci]
  case badKey =>
    rw [exec_ctr_of_set hr hkc hiv hnb, ctrSteps_of_in_range attached _ hlen hmax, ctrPhase_rejected attached _ hkey]
    rfl
  case done =>
    rw [exec_ctr_of_set hr hkc hiv hnb, ctrSteps_of_in_range attached _ hlen hmax, ctrPhase_accepted hkey]
    rfl
  case counter => rw [counterBlock_drop hlen, counterStart_eq_and hlen]

end Sys2Proof.Machine
end

section
/-! The envelope (spec/44_envelope.md R190 to R204): what SEAL emits, what OPEN recovers from it, and where the two are each
other's inverse. -/

namespace Sys2Proof.Machine

/-! ### The text under the keystream (R190 steps 2, 4 and 5, R200 steps 3 and 4) -/

/-- A text XORed with the keystream of an IV: the ciphertext of a plaintext, and the plaintext of a ciphertext. -/
def cryptText (P : Params) (kc iv x : Bytes) : Bytes := xorBytes x (ctrKeystream (encUnder P kc) iv (blocksFor x.length))

section
variable (P : Params) (kc iv x : Bytes)

/-- The keystream of a text is at least as long as the text. -/
theorem length_le_keystream : x.length ≤ (ctrKeystream (encUnder P kc) iv (blocksFor x.length)).length := by
  rw [ctrKeystream_length (encUnder_length P kc)]
  exact length_le_blocksFor _

@[simp] theorem cryptText_length : (cryptText P kc iv x).length = x.length := xorBytes_length (length_le_keystream P kc iv x)

/-- Under the same key and IV the second pass takes the first one away. -/
@[simp] theorem cryptText_cryptText : cryptText P kc iv (cryptText P kc iv x) = x := by
  rw [cryptText, cryptText_length]
  exact xorBytes_cancel (length_le_keystream P kc iv x)

/-- Only as many bytes of the keystream as the text has are used (R190 step 4). -/
theorem cryptText_eq_xorBytes_take :
    cryptText P kc iv x = xorBytes x ((ctrKeystream (encUnder P kc) iv (blocksFor x.length)).take x.length) := by
  calc cryptText P kc iv x
    _ = (cryptText P kc iv x).take x.length := (List.take_of_length_le (cryptText_length P kc iv x).le).symm
    _ = xorBytes (x.take x.length) ((ctrKeystream (encUnder P kc) iv (blocksFor x.length)).take x.length) :=
      List.take_zipWith
    _ = _ := by rw [List.take_length]

end

/-! ### Sealed strings (R190, R200) -/

/-- The synthetic IV of a plaintext. -/
def syntheticIv (P : Params) (km pt : Bytes) (ad : List Bytes) : Bytes := s2vTag (macUnder P km) pt ad

/-- What SEAL makes of a plaintext (R190 step 6). -/
def sealedText (P : Params) (kc km pt : Bytes) (ad : List Bytes) : Bytes :=
  syntheticIv P km pt ad ++ cryptText P kc (syntheticIv P km pt ad) pt

/-- The plaintext OPEN recovers from its input, before the compare (R200 step 4). -/
def openedText (P : Params) (kc input : Bytes) : Bytes := cryptText P kc (input.take 16) (input.drop 16)

section
variable (P : Params) (kc km pt : Bytes) (ad : List Bytes)

@[simp] theorem syntheticIv_length : (syntheticIv P km pt ad).length = 16 := s2vTag_length ..

@[simp] theorem sealedText_length : (sealedText P kc km pt ad).length = pt.length + 16 := by
  simp [sealedText, Nat.add_comm]

/-- A sealed string begins with the synthetic IV. -/
@[simp] theorem sealedText_take : (sealedText P kc km pt ad).take 16 = syntheticIv P km pt ad := List.take_left' (by simp)

/-- OPEN recovers the plaintext of a sealed string. -/
@[simp] theorem openedText_sealedText : openedText P kc (sealedText P kc km pt ad) = pt := by
  rw [openedText, sealedText_take, sealedText, List.drop_left' (by simp), cryptText_cryptText]

/-- A string that begins with the synthetic IV of the plaintext recovered from it is the sealed string of that plaintext. -/
theorem sealedText_openedText {input : Bytes} (h : input.take 16 = syntheticIv P km (openedText P kc input) ad) :
    sealedText P kc km (openedText P kc input) ad = input := by
  rw [sealedText, ← h, openedText, cryptText_cryptText, List.take_append_drop]

end

/-! ### The steps of SEAL -/

section
variable {P : Params} {kc km pt : Bytes} {ad : List Bytes}

/-- SEAL refuses a plaintext too long and a vector of too many elements before it looks at a key (R190). -/
theorem sealSteps_out_of_range (h : pt.length + 16 > P.maxLen ∨ ad.length > 126) (ci : CipherInst) :
    sealSteps P kc km pt ad ci = .raised .invalidInput ci := by
  unfold sealSteps
  split
  case isTrue => rfl
  case isFalse hlen => rw [s2vPhase_of_too_many P (h.resolve_left hlen), Ending.andThen_raised]

/-- SEAL with operands in range and both keys accepted (R190). -/
theorem sealSteps_accepted (hlen : pt.length + 16 ≤ P.maxLen) (hn : ad.length ≤ 126) (hkm : P.keyOk km.length = true)
    (hkc : P.keyOk kc.length = true) (ci : CipherInst) :
    sealSteps P kc km pt ad ci = .done (sealedText P kc km pt ad) (.keyed kc) := by
  rw [sealSteps, if_neg (Nat.not_lt.mpr hlen), s2vPhase_accepted hn hkm, Ending.andThen_done, ctrPhase_accepted hkc]
  rfl

/-- Everything SEAL can do where it gives a result. -/
theorem sealSteps_eq_done {v : Bytes} {ci ci' : CipherInst} (h : sealSteps P kc km pt ad ci = .done v ci') :
    ad.length ≤ 126 ∧ P.keyOk km.length = true ∧ P.keyOk kc.length = true ∧ v = sealedText P kc km pt ad := by
  unfold sealSteps at h
  split at h
  case isTrue => cases h
  case isFalse =>
    obtain ⟨iv, _, hs2v, h⟩ := Ending.andThen_eq_done h
    obtain ⟨ks, _, hctr, h⟩ := Ending.andThen_eq_done h
    obtain ⟨hn, hkm, rfl, -⟩ := s2vPhase_eq_done hs2v
    obtain ⟨hkc, rfl, -⟩ := ctrPhase_eq_done hctr
    cases h
    exact ⟨hn, hkm, hkc, rfl⟩

end

/-! ### The steps of OPEN -/

section
variable {P : Params} {kc km input : Bytes} {ad : List Bytes}

/-- OPEN refuses an input shorter than a tag before it touches the cipher (R200 step 1). -/
theorem openSteps_of_short (hlen : input.length < 16) (ci : CipherInst) :
    openSteps P kc km input ad ci = .raised .invalidLength ci := if_pos hlen

/-- OPEN counts the elements with `CI` keyed with the CTR key (R200 step 5). -/
theorem openSteps_of_too_many (hlen : 16 ≤ input.length) (hkc : P.keyOk kc.length = true) (hn : 126 < ad.length)
    (ci : CipherInst) : openSteps P kc km input ad ci = .raised .invalidInput (.keyed kc) := by
  simp only [openSteps, if_neg (Nat.not_lt.mpr hlen), ctrPhase_accepted hkc, Ending.andThen_done,
    s2vPhase_of_too_many P hn, Ending.andThen_raised]

/-- The compare of OPEN passes exactly on equal tags (R200 step 6). -/
theorem openCompare_eq {u v : Bytes} (hu : u.length = 16) (hv : v.length = 16) (x y : Ending) :
    (if ctAcc u v ≠ 0 then x else y) = if u = v then y else x := by
  rw [ite_not, if_congr (ctAcc_eq_zero_iff hu hv) rfl rfl]

/-- OPEN with both keys and the count accepted: the compare decides whether the plaintext is released (R200). -/
theorem openSteps_accepted (hlen : 16 ≤ input.length) (hkc : P.keyOk kc.length = true) (hn : ad.length ≤ 126)
    (hkm : P.keyOk km.length = true) (ci : CipherInst) :
    openSteps P kc km input ad ci = if input.take 16 = syntheticIv P km (openedText P kc input) ad
      then .done (openedText P kc input) (.keyed km) else .raised .unauthentic (.keyed km) := by
  simp only [openSteps, if_neg (Nat.not_lt.mpr hlen), ctrPhase_accepted hkc, Ending.andThen_done, s2vPhase_accepted hn hkm]
  exact openCompare_eq (by simp [hlen]) (by simp) ..

/-- Everything OPEN can do where it gives a plaintext. -/
theorem openSteps_eq_done {pt : Bytes} {ci ci' : CipherInst} (h : openSteps P kc km input ad ci = .done pt ci') :
    P.keyOk kc.length = true ∧ ad.length ≤ 126 ∧ P.keyOk km.length = true ∧ pt = openedText P kc input ∧
      input.take 16 = syntheticIv P km pt ad := by
  unfold openSteps at h
  split at h
  case isTrue => cases h
  case isFalse hlen =>
    obtain ⟨ks, _, hctr, h⟩ := Ending.andThen_eq_done h
    obtain ⟨iv, _, hs2v, h⟩ := Ending.andThen_eq_done h
    obtain ⟨hkc, rfl, -⟩ := ctrPhase_eq_done hctr
    obtain ⟨hn, hkm, rfl, -⟩ := s2vPhase_eq_done hs2v
    rw [openCompare_eq (by simp; omega) (by simp)] at h
    split at h
    case isTrue htag => cases h; exact ⟨hkc, hn, hkm, rfl, htag⟩
    case isFalse => cases h

/-- OPEN of a sealed string gives its plaintext (R204). -/
theorem openSteps_sealedText {pt : Bytes} (hn : ad.length ≤ 126) (hkm : P.keyOk km.length = true)
    (hkc : P.keyOk kc.length = true) (ci : CipherInst) :
    openSteps P kc km (sealedText P kc km pt ad) ad ci = .done pt (.keyed km) := by
  rw [openSteps_accepted (by simp) hkc hn hkm, openedText_sealedText, if_pos (sealedText_take ..)]

end

/-- Settles O28: where OPEN gives a plaintext its input is the sealed string of it, and sealed strings open. -/
theorem openAcceptsExactlyTheSealedStrings : Obligations.OpenAcceptsExactlyTheSealedStrings := by
  unfold Obligations.OpenAcceptsExactlyTheSealedStrings
  refine fun P kc km input pt ad ci ci' hmax => ⟨fun hopen => ?_, fun hseal => ?_⟩
  · obtain ⟨hkc, hn, hkm, rfl, htag⟩ := openSteps_eq_done hopen
    have hsealed := sealedText_openedText P kc km ad htag
    have hlen : (openedText P kc input).length + 16 ≤ P.maxLen := by rwa [← sealedText_length P kc km _ ad, hsealed]
    rw [sealSteps_accepted hlen hn hkm hkc, hsealed]
  · obtain ⟨hn, hkm, hkc, rfl⟩ := sealSteps_eq_done hseal
    exact openSteps_sealedText hn hkm hkc ci

/-! ### The masked bits of the IV (R171, R202) -/

/-- The counter's mask takes a flip of bit 7 away. -/
theorem mask_comp_flip : (fun x : Byte => x &&& 0x7F) ∘ (· ^^^ 0x80) = fun x => x &&& 0x7F := by
  have hmask : ∀ x : Byte, (x ^^^ 0x80) &&& 0x7F = x &&& 0x7F := by decide
  exact funext hmask

section
variable {j : Nat} (hj : j = 8 ∨ j = 12) (iv : Bytes)
include hj

/-- The masked copy of the IV does not depend on the two bits (R170 steps K2 and K3). -/
theorem maskCounter_flip : maskCounter (iv.modify j (· ^^^ 0x80)) = maskCounter iv := by
  unfold maskCounter
  obtain rfl | rfl := hj
  · rw [List.modify_modify_eq, mask_comp_flip]
  · rw [List.modify_modify_ne _ _ _ (by decide : 12 ≠ 8), List.modify_modify_eq, mask_comp_flip]

/-- Neither do the counter blocks, and so the keystream (R171). -/
theorem counterBlock_flip : counterBlock (iv.modify j (· ^^^ 0x80)) = counterBlock iv := by
  funext i
  have htake : (iv.modify j (· ^^^ 0x80)).take 8 = iv.take 8 := by
    rw [List.take_modify, List.modify_eq_self (by simp; omega)]
  rw [counterBlock, counterStart, maskCounter_flip hj, htake]
  rfl

theorem cryptText_flip (P : Params) (kc x : Bytes) :
    cryptText P kc (iv.modify j (· ^^^ 0x80)) x = cryptText P kc iv x := by
  simp only [cryptText, ctrKeystream, counterBlocks, counterBlock_flip hj]

end

/-- A flipped byte of a string makes another string. -/
theorem modify_flip_ne {s : Bytes} {j : Nat} (hj : j < s.length) : s.modify j (· ^^^ 0x80) ≠ s := by
  intro h
  have hbyte : s[j] ^^^ 0x80 = s[j] := by
    rw [← List.getElem_modify_eq (· ^^^ 0x80) j s (by simpa using hj)]
    simp only [h]
  simp at hbyte

/-- Settles O29: the flip leaves the keystream and the recovered plaintext, and so the recomputed tag, as they were; the
given tag differs from it in the flipped bit. -/
theorem flippedMaskedIvBitIsUnauthentic : Obligations.FlippedMaskedIvBitIsUnauthentic := by
  unfold Obligations.FlippedMaskedIvBitIsUnauthentic
  intro P kc km pt v ad ci ci₁ ci' j hseal hj
  obtain ⟨hn, hkm, hkc, rfl⟩ := sealSteps_eq_done hseal
  have hj16 : j < 16 := by omega
  have htake : ((sealedText P kc km pt ad).modify j (· ^^^ 0x80)).take 16 =
      (syntheticIv P km pt ad).modify j (· ^^^ 0x80) := by rw [List.take_modify, sealedText_take]
  have hopened : openedText P kc ((sealedText P kc km pt ad).modify j (· ^^^ 0x80)) = pt := by
    rw [openedText, htake, cryptText_flip hj, List.drop_modify_of_lt _ _ _ _ hj16, ← sealedText_take P kc]
    exact openedText_sealedText ..
  rw [openSteps_accepted (by simp) hkc hn hkm, hopened, htake, if_neg (modify_flip_ne (by simpa using hj16))]

/-! ### The commands -/

/-- Settles O24: the command ends in its steps, which stop at the first check that fails. -/
theorem sealEmitsIvThenCiphertext : Obligations.SealEmitsIvThenCiphertext := by
  unfold Obligations.SealEmitsIvThenCiphertext
  refine ⟨decode_encode .seal_, fun s ch kc km pt ad hr hkc hkm hpt had => ?_⟩
  rw [exec_seal_of_set hr hkc hkm hpt had]
  refine ⟨fun hrange => ?outOfRange, fun hlen hn hkey => ?badKey, fun hlen hn hokm hokc =>
    ⟨syntheticIv attached km pt ad, ctrKeystream (encUnder attached kc) (syntheticIv attached km pt ad)
      (blocksFor pt.length), ?done, rfl, rfl, ?length⟩⟩
  case outOfRange => rw [sealSteps_out_of_range hrange, ch.finish_raised_same_ci]
  case badKey =>
    cases hokm : Config.keyOk km.length with
    | false => exact ⟨ch.ci, by rw [sealSteps_of_rejected_mackey attached _ hlen hn hokm]; rfl⟩
    | true =>
      have hbad := hkey.resolve_left (by simp [hokm])
      exact ⟨.keyed km, by rw [sealSteps_of_rejected_ctrkey attached _ hlen hn hokm hbad]; rfl⟩
  case done =>
    rw [sealSteps_accepted hlen hn hokm hokc, ← cryptText_eq_xorBytes_take]
    rfl
  case length =>
    rw [← cryptText_eq_xorBytes_take]
    exact sealedText_length ..

/-- Settles O25: the command ends in its steps, which stop at the first check that fails, the compare last. -/
theorem openReleasesThePlaintextOnlyOnAMatch : Obligations.OpenReleasesThePlaintextOnlyOnAMatch := by
  unfold Obligations.OpenReleasesThePlaintextOnlyOnAMatch
  refine ⟨decode_encode .open_, fun s ch kc km input ad hr hkc hkm hx had => ?_⟩
  rw [exec_open_of_set hr hkc hkm hx had]
  refine ⟨fun hlen => ?short, fun hlen hbad => ⟨ch.ci, ?badCtrKey⟩, fun hlen hokc hn => ?tooMany,
    fun hlen hokc hn hbad => ⟨.keyed kc, ?badMacKey⟩, fun hlen hokc hn hokm => ⟨input.take 16, _,
      openedText attached kc input, rfl, rfl, ?plaintext, ?compared⟩⟩
  case short => rw [openSteps_of_short hlen, ch.finish_raised_same_ci]
  case badCtrKey =>
    rw [openSteps_of_rejected_ctrkey attached _ hlen hbad]
    rfl
  case tooMany =>
    rw [openSteps_of_too_many hlen hokc hn]
    rfl
  case badMacKey =>
    rw [openSteps_of_rejected_mackey attached _ hlen hokc hn hbad]
    rfl
  case plaintext =>
    rw [openedText, cryptText_eq_xorBytes_take, List.length_drop]
    rfl
  case compared =>
    rw [openSteps_accepted hlen hokc hn hokm, apply_ite ch.finish]
    rfl

/-- The channel just replaced is ready where it has no fault. -/
theorem Ready.setChannel {s : State} {ch ch' : Channel} (h : Ready s ch) (hf : ch'.fault = none) :
    Ready (s.setChannel s.cur ch') ch' := by
  obtain ⟨hch, -, hcfg⟩ := h
  exact ⟨State.channel?_setChannel_self hch ch', hf, hcfg⟩

/-- With a sealed string in `R_OUT`, a CPY into `P_A` leaves the other operands, and OPEN gives the plaintext (R204). -/
theorem cpy_open_of_sealed_out {s : State} {ch : Channel} {kc km pt : Bytes} {ad : List Bytes} (hr : Ready s ch)
    (hkc : ch.ctrkey = some kc) (hkm : ch.mackey = some km) (had : ch.ad = some ad)
    (ho : ch.out = some (sealedText attached kc km pt ad)) (hn : ad.length ≤ 126) (hokm : Config.keyOk km.length = true)
    (hokc : Config.keyOk kc.length = true) :
    ∃ s₂ s₃ ch₃, perform (.cpy s.cur 2) s = .next s₂ ∧ exec .open_ s₂ = .next s₃ ∧ s₃.channel? s.cur = some ch₃ ∧
      ch₃.status = some .ok ∧ ch₃.out = some pt := by
  have ⟨hch, hf, _⟩ := hr
  have hcpy := perform_of_quiet_move (act := .cpy s.cur Port.a.id) hch hf rfl (.cpy ho rfl)
  have hr₂ := hr.setChannel (ch' := { ch with a := some (sealedText attached kc km pt ad) }) hf
  have ⟨hch₂, _, _⟩ := hr₂
  have hopen := exec_open_of_set hr₂ hkc hkm rfl had
  rw [openSteps_sealedText hn hokm hokc] at hopen
  exact ⟨_, _, _, hcpy, hopen, State.channel?_setChannel_self hch₂ _, rfl, rfl⟩

/-- Settles O27: SEAL leaves the sealed string in `R_OUT` and its operands as they were. -/
theorem sealThenOpenGivesThePlaintextBack : Obligations.SealThenOpenGivesThePlaintextBack := by
  unfold Obligations.SealThenOpenGivesThePlaintextBack
  intro s ch kc km pt ad hr hkc hkm hpt had hokc hokm hn hlen
  have ⟨_, hf, _⟩ := hr
  have hr₁ := hr.setChannel (ch' := ch.finish (.done (sealedText attached kc km pt ad) (.keyed kc))) hf
  obtain ⟨s₂, s₃, ch₃, hback⟩ := cpy_open_of_sealed_out hr₁ hkc hkm had rfl hn hokm hokc
  exact ⟨_, s₂, s₃, ch₃, by rw [exec_seal_of_set hr hkc hkm hpt had, sealSteps_accepted hlen hn hokm hokc], hback⟩

end Sys2Proof.Machine
end

section
/-! What a command leaves of the channel it runs on where the block is unconfigured, a port is unset, or the command fails
(spec/60_exceptions.md R223 to R227). -/

namespace Sys2Proof.Machine

/-! ### The prologue -/

/-- Settles O5: an ISSUE on an unconfigured block is the `raise` of `CONFIGURATION`, and no step writes `CFG_OK`. -/
theorem unconfiguredBlockAnswersConfiguration : Obligations.UnconfiguredBlockAnswersConfiguration := by
  unfold Obligations.UnconfiguredBlockAnswersConfiguration
  refine ⟨fun s c w rest ch htodo h hf hcfg => ?_, fun s t hcfg hstep => (noStepWritesCfgOk s t hstep).trans hcfg⟩
  have hstep := (step_of_todo htodo).trans
    (issue_of_ready (s := { s with todo := rest, index := s.index + 1 }) h hf w)
  refine ⟨_, hstep, hcfg, ?_⟩
  rw [State.setChannel_channels, hcfg]
  rfl

/-- Settles O6: the ports written out are those of `portsRead`, and a command with an unset port records the first. -/
theorem firstUnsetOperandIsRecorded : Obligations.FirstUnsetOperandIsRecorded := by
  unfold Obligations.FirstUnsetOperandIsRecorded
  intro i s ch p hr hp
  have hfind : (portsRead i).find? (fun q => (ch.portValue q).isNone) = some p := by cases i <;> exact hp
  rw [exec_of_ready hr, commandOn_unset s.cur hfind]
  rfl

/-! ### What a command writes -/

/-- A command whose ports are set records no fault (R225). -/
theorem commandOn_fault_of_set {i : Instr} {ch : Channel} (c : Nat) (hset : ∀ p ∈ portsRead i, ch.portValue p ≠ none) :
    (commandOn i c ch).fault = ch.fault := by
  obtain ⟨e, -, h, -⟩ | ⟨-, a, -, h⟩ := commandOn_set c hset
  · rw [h, Channel.finish_fault]
  · rw [h, shl1Steps_fault]

/-- Only a SHL1 that succeeds writes `R_CARRY` (R38, R223). -/
theorem commandOn_carry_of_not_ok {i : Instr} {c : Nat} {ch : Channel}
    (h : ¬ (i = .shl1 ∧ (commandOn i c ch).status = some .ok)) : (commandOn i c ch).carry = ch.carry := by
  obtain ⟨p, hrec⟩ | hset := commandOn_unset_or_set i c ch
  · rw [hrec, Channel.recordFault_carry]
  · obtain ⟨e, -, hend, -⟩ | ⟨hi, a, -, hshl⟩ := commandOn_set c hset
    · rw [hend, Channel.finish_carry]
    · obtain ⟨st, -, hst, -, -, -, hkeep⟩ := shl1Steps_writes_results ch a
      rw [hshl] at h ⊢
      exact hkeep fun hok => h ⟨hi, by rw [hst, hok]⟩

/-- Steps that check their operands and then give a result, keying nothing, leave `CI`. -/
theorem Channel.finish_check_ci (ch : Channel) {q : Prop} [Decidable q] {k : Status} {v : Bytes} :
    (ch.finish (if q then .raised k ch.ci else .done v ch.ci)).ci = ch.ci := by
  split <;> rfl

theorem shl1Steps_ci (ch : Channel) (blk : Bytes) : (shl1Steps ch blk).ci = ch.ci := by
  unfold shl1Steps
  split <;> rfl

/-- Reading a port leaves `CI` where the steps after it do. -/
theorem operand_ci {α : Type} {c : Nat} {ch : Channel} {p : Port} {v : Option α} {k : α → Channel}
    (hk : ∀ x, (k x).ci = ch.ci) : (operand c ch p v k).ci = ch.ci := by
  cases v with
  | none => rfl
  | some x => exact hk x

/-- The six primitives leave `CI` (R120). -/
theorem commandOn_ci_of_primitive {i : Instr}
    (hi : i = .xor ∨ i = .xorend ∨ i = .pad ∨ i = .shl1 ∨ i = .dbl ∨ i = .cteq) (c : Nat) (ch : Channel) :
    (commandOn i c ch).ci = ch.ci := by
  obtain rfl | rfl | rfl | rfl | rfl | rfl := hi
  · exact operand_ci fun _ => operand_ci fun _ => ch.finish_check_ci
  · exact operand_ci fun _ => operand_ci fun _ => ch.finish_check_ci
  · exact operand_ci fun _ => ch.finish_check_ci
  · exact operand_ci fun a => shl1Steps_ci ch a
  · exact operand_ci fun _ => ch.finish_check_ci
  · exact operand_ci fun _ => operand_ci fun _ => ch.finish_check_ci

/-- Settles O8: the channel is replaced by what the command makes of it, or by the `raise` of `CONFIGURATION`. -/
theorem commandFrame : Obligations.CommandFrame := by
  unfold Obligations.CommandFrame
  intro i s t hexec
  obtain ⟨ch, hch, hf, rfl⟩ := exec_next hexec
  refine ⟨ch, _, hch, rfl, ?_⟩
  cases s.cfgOk with
  | false => exact ⟨ch.raise_portValue _, fun _ => rfl, fun _ => rfl, fun hfault => absurd hf hfault⟩
  | true =>
    refine ⟨commandOn_portValue i _ ch, fun hi => commandOn_carry hi _ ch, fun hi => commandOn_ci_of_primitive hi _ ch,
      fun hfault => ?_⟩
    obtain ⟨p, hrec⟩ | hset := commandOn_unset_or_set i s.cur ch
    · simp [hrec]
    · exact absurd ((commandOn_fault_of_set s.cur hset).trans hf) hfault

/-! ### The next command -/

/-- In two channels with the same ports a command finds the same first port unset, or ends in the same results. -/
theorem Channel.samePorts.commandOn {ch ch' : Channel} (h : ch.samePorts ch') (i : Instr) (c : Nat) :
    (∃ f, commandOn i c ch = ch.recordFault f ∧ commandOn i c ch' = ch'.recordFault f) ∨
    Channel.SameResults i (commandOn i c ch) (commandOn i c ch') ∧
      (commandOn i c ch).fault = ch.fault ∧ (commandOn i c ch').fault = ch'.fault := by
  cases hfind : (portsRead i).find? fun q => (ch.portValue q).isNone with
  | some p =>
    have hfind' : (portsRead i).find? (fun q => (ch'.portValue q).isNone) = some p := by simpa only [h _] using hfind
    exact .inl ⟨_, commandOn_unset c hfind, commandOn_unset c hfind'⟩
  | none =>
    have hset : ∀ p ∈ portsRead i, ch.portValue p ≠ none := fun p hp hnone =>
      List.find?_eq_none.mp hfind p hp (by rw [hnone]; rfl)
    exact .inr ⟨commandOn_sameResults (fun p hp => ⟨h p, hset p hp⟩) c c, commandOn_fault_of_set c hset,
      commandOn_fault_of_set c fun p hp => h p ▸ hset p hp⟩

/-- A command leaves two channels that had the same carry with the same carry, where it ends with the same results. -/
theorem Channel.SameResults.commandOn_carry {i : Instr} {c : Nat} {ch ch' : Channel}
    (hres : SameResults i (commandOn i c ch) (commandOn i c ch')) (hcarry : ch'.carry = ch.carry) :
    (commandOn i c ch').carry = (commandOn i c ch).carry := by
  by_cases hok : i = .shl1 ∧ (commandOn i c ch).status = some .ok
  · obtain ⟨hi, hst⟩ := hok
    exact hres.carry hi hst
  · rw [commandOn_carry_of_not_ok hok, commandOn_carry_of_not_ok (hres.status ▸ hok), hcarry]

/-- Settles O9: a failed command leaves the ports, the carry and the fault, and of these the next one makes the same. -/
theorem failureLeavesNoErrorState : Obligations.FailureLeavesNoErrorState := by
  unfold Obligations.FailureLeavesNoErrorState
  intro i j s s₁ ch ch₁ hr hexec hch₁ hf₁ hfail
  have ⟨hch, hf, _⟩ := hr
  cases (exec_of_ready hr).symm.trans hexec
  cases (State.channel?_setChannel_self hch _).symm.trans hch₁
  have hports : ch.samePorts (commandOn i s.cur ch) := commandOn_portValue i s.cur ch
  have hcarry : (commandOn i s.cur ch).carry = ch.carry := commandOn_carry_of_not_ok fun hok => hfail hok.2
  refine ⟨_, _, exec_of_ready hr, exec_of_ready (hr.setChannel hf₁), ?_⟩
  have hports' : (commandOn j s.cur ch).samePorts (commandOn j s.cur (commandOn i s.cur ch)) := fun p => by
    simp only [commandOn_portValue]
  obtain ⟨f, hrec, hrec'⟩ | ⟨hres, hkeep, hkeep'⟩ := hports.commandOn j s.cur
  · exact ⟨by simp [hrec, hrec'], by simp [hrec, hrec', hcarry], hports', by simp [hrec]⟩
  · exact ⟨hkeep'.trans (hf₁.trans (hkeep.trans hf).symm), hres.commandOn_carry hcarry, hports',
      fun _ => ⟨hres.out, hres.status⟩⟩

end Sys2Proof.Machine
end

section
/-! Faulted channels, and runs from a state with one (spec/60_exceptions.md R229, R231). -/

namespace Sys2Proof.Machine

/-- Every host action on a faulted channel ends in the recorded fault (R231). -/
theorem perform_of_fault {s : State} {act : Action} {ch : Channel} {f : Fault} (h : s.channel? act.chan = some ch)
    (hf : ch.fault = some f) : perform act s = .fault f := by
  cases hw : act.word? with
  | some w =>
    have h' : ({ s with cur := act.chan } : State).channel? act.chan = some ch := h
    rw [perform_of_word? hw, issue_eq_runCommand]
    exact onChannel_of_fault h' hf
  | none =>
    cases act with
    | write c id v => exact (perform_write_of_word?_none hw s).trans (onChannel_of_fault h hf)
    | issue c w => cases hw
    | clear | read | cpy | cpyad => exact onChannel_of_fault h hf

/-- A step that answers a next state leaves a faulted channel as it is: what it performs is a move on another (R231). -/
theorem step_keeps_faulted_channel {s t : State} {c : Nat} {ch : Channel} {f : Fault} (h : s.channel? c = some ch)
    (hf : ch.fault = some f) (hstep : step s = .next t) : t.channel? c = some ch := by
  obtain ⟨-, -, rfl⟩ | ⟨act, rest, -, hp⟩ := step_next hstep
  · exact h
  · obtain ⟨x, x', rs, hx, hfx, -, rfl⟩ := perform_eq_next_iff.mp hp
    have hc : act.chan ≠ c := by
      rintro rfl
      cases hx.symm.trans h
      cases hfx.symm.trans hf
    exact (State.channel?_afterMove_ne _ hc x' rs).trans h

/-- Settles O35: an action on the channel ends in the fault, and a step acts on another channel or rests. -/
theorem faultedChannelTakesNoFurtherStep : Obligations.FaultedChannelTakesNoFurtherStep := by
  unfold Obligations.FaultedChannelTakesNoFurtherStep
  intro s c ch f h hf
  exact ⟨fun act hact => perform_of_fault (hact ▸ h) hf, fun t => step_keeps_faulted_channel h hf⟩

/-! ### Runs -/

/-- A run of at least one step that answers a next state begins with a step that does. -/
theorem run_succ_next {k : Nat} {s t : State} (hrun : core.run (k + 1) s = .next t) :
    ∃ s', step s = .next s' ∧ core.run k s' = .next t := by
  cases hstep : step s with
  | next s' => exact ⟨s', rfl, run_succ_of_step hstep k ▸ hrun⟩
  | fault f =>
    have hcore : core.step s = .fault f := hstep
    simp [Host.Core.run, hcore] at hrun
  | refused r =>
    have hcore : core.step s = .refused r := hstep
    simp [Host.Core.run, hcore] at hrun

/-- What every step keeps, every run keeps. -/
theorem run_keeps {P : State → Prop} (hP : ∀ s t, P s → step s = .next t → P t) {k : Nat} {s t : State} (hs : P s)
    (hrun : core.run k s = .next t) : P t := by
  induction k generalizing s with
  | zero =>
    cases hrun
    exact hs
  | succ k ih =>
    obtain ⟨s', hstep, hrest⟩ := run_succ_next hrun
    exact ih (hP s s' hs hstep) hrest

/-- A state is final where no action is left and no channel has a fault (R229). -/
theorem State.final_iff {s : State} :
    s.final = true ↔ s.todo = [] ∧ ∀ c ch, s.channel? c = some ch → ch.fault = none := by
  simp [final, ← fault?_eq_none]

theorem State.final_eq_false_of_fault {s : State} {c : Nat} {ch : Channel} {f : Fault} (h : s.channel? c = some ch)
    (hf : ch.fault = some f) : s.final = false := by
  refine Bool.eq_false_iff.mpr fun hfinal => ?_
  obtain ⟨-, hnone⟩ := final_iff.mp hfinal
  cases hf.symm.trans (hnone c ch h)

/-- With no action left, a state with a faulted channel ends in a fault some channel of it records (R229). -/
theorem step_of_fault_of_todo_nil {s : State} {c : Nat} {ch : Channel} {f : Fault} (h : s.channel? c = some ch)
    (hf : ch.fault = some f) (htodo : s.todo = []) :
    ∃ g d ch', step s = .fault g ∧ s.channel? d = some ch' ∧ ch'.fault = some g := by
  cases hg : s.fault? with
  | none => cases hf.symm.trans (State.fault?_eq_none.mp hg c ch h)
  | some g =>
    obtain ⟨d, ch', hd, hfd⟩ := State.fault?_eq_some hg
    exact ⟨g, d, ch', by simp [step, hostStep, htodo, hg], hd, hfd⟩

/-- Settles O50: every step, and so every run, keeps the faulted channel, and a state with one is not final. -/
theorem faultedStateIsNeverFinal : Obligations.FaultedStateIsNeverFinal := by
  unfold Obligations.FaultedStateIsNeverFinal
  refine ⟨fun s => State.final_iff, fun s c ch f h hf => ⟨step_of_fault_of_todo_nil h hf, fun k t hrun => ?_⟩⟩
  have hkept : t.channel? c = some ch :=
    run_keeps (P := fun s => s.channel? c = some ch) (fun _ _ hs hstep => step_keeps_faulted_channel hs hf hstep) h hrun
  exact ⟨hkept, State.final_eq_false_of_fault hkept hf⟩

end Sys2Proof.Machine
end
